-- ==== Sys2Proof/Word.lean ====
section
/-! DEFINITION. The word types of the core: bytes (registers, data, ports), 16-bit words (PC, SP, pairs,
addresses) and text as a list of characters (00_scope.md R9, R11). -/
namespace Sys2Proof

/-- `XLEN` and `IO_DATA_WIDTH` of R9: 8 bits. -/
abbrev Byte := BitVec 8

/-- `PAIR_WIDTH` and `ADDR_WIDTH` of R9: 16 bits. -/
abbrev Word := BitVec 16

/-- Text the disassembler and the log produce, one character a cell. -/
abbrev Text := List Char

end Sys2Proof
end

