-- ==== Sys2Proof/Config.lean ====
section
/-! DEFINITION. What the hardware fixes (the parameter table of 00_scope.md R9) and the values the spec leaves
OPEN: each open value is an opaque constant, so that nothing can be proved of which value it is. -/
namespace Sys2Proof

/-- `MAX_ADDRESS` (R9, R70). -/
def Config.maxAddress : Nat := 65535

/-- `MEM_SIZE` (R9). -/
def Config.memSize : Nat := 65536

/-- `ROM_START` and `ROM_SIZE` (R9, R77). -/
def Config.romStart : Nat := 0
def Config.romSize : Nat := 16384

/-- `RAM_START` and `RAM_SIZE` (R9, R78). -/
def Config.ramStart : Nat := 16384
def Config.ramSize : Nat := 49152

/-- `BORDER_PORT` (R9, R103). -/
def Config.borderPort : Nat := 0xFE

/-- `CLOCK_FREQ_HZ` (R9, R49). -/
def Config.clockFreqHz : Nat := 3500000

/-- `IMPLEMENTED` (R3, R9, D1): the opcode bytes that have a handler. -/
def Config.implemented : List Byte := [0x06#8, 0x3E#8, 0xAF#8, 0xC3#8]

/-- The two values of the OPEN parameter `HIT_MODE` (R85, D2). -/
inductive HitMode where
  | closedAnd
  | sourceOr
  deriving DecidableEq, Repr

/-- A colour of the render output. The spec gives no width for a component, so each is a natural (log entry 10). -/
structure Rgb where
  red : Nat
  green : Nat
  blue : Nat
  deriving DecidableEq, Repr, Inhabited

/-- The eight operator types of an instruction definition (R211). -/
inductive OperatorType where
  | direct8Bit
  | direct16Bit
  | address
  | indirect
  | pcRelativeAddress
  | restartAddress
  | indirect8BitDisplacement
  | prefixedIndirect
  deriving DecidableEq, Repr, Inhabited

/-- An operand's name: `None`, which renders as nothing, or its canonical symbol (R211, R218). -/
inductive OperandName where
  | none
  | symbol (text : Text)
  deriving DecidableEq, Repr, Inhabited

/-- An instruction definition of the disassembler (R211). -/
structure InstrDef where
  name : Text
  operatorType : OperatorType
  operand1 : OperandName
  operand2 : OperandName
  deriving DecidableEq, Repr, Inhabited

/-- One line of the register dump: a register's name with its hexadecimal or Boolean value (R257, R288). -/
inductive DumpEntry where
  | hex (name : String) (value : Nat)
  | bool (name : String) (value : Bool)
  deriving DecidableEq, Repr

/-- `R_AFTER_STEP` (R41, D10): what R holds after the n-th draw. Free value, log entry 4. -/
opaque Config.rAfterStep : Nat → Byte

/-- `IO_READ_FE` (R105, D19): what a read of the border device gives at the n-th draw. Free value, log entry 5. -/
opaque Config.ioReadFe : Nat → Byte

/-- `BORDER_RGB` (R104, D19): the colour the border device drives for a written byte. Free value, log entry 10. -/
opaque Config.borderRgb : Byte → Rgb

/-- `DISASM_STANDARD_TABLE` (R223, R224, D26): the `Standard` table's entries beyond the four the spec gives.
Free value, log entry 11. -/
opaque Config.disasmStandardTable : Byte → InstrDef

/-- The exact text of `DumpRegisters` (R288, D33), from the entries it renders. Free value, log entry 12. -/
opaque Config.dumpText : List DumpEntry → Text

end Sys2Proof
end

