-- ==== Sys2Proof/Syntax.lean ====
section
/-! DEFINITION. The instructions: one constructor per mnemonic of spec/opcode_table.json. The table's 252 rows
UNIMPLEMENTED differ only in the byte they match, and that byte is the constructor's argument (R134, R140). -/
namespace Sys2Proof

inductive Instr where
  /-- `LD B,n`, opcode 0x06 (R180). -/
  | ldB (n : Byte)
  /-- `LD A,n`, opcode 0x3E (R181). -/
  | ldA (n : Byte)
  /-- `XOR A`, opcode 0xAF (R192). -/
  | xorA
  /-- `JP nn`, opcode 0xC3 (R200). -/
  | jp (nn : Word)
  /-- Any of the 252 opcode bytes with no handler (R135, R156). -/
  | unimplemented (op : Byte)
  deriving DecidableEq, Repr

end Sys2Proof
end

