-- ==== Sys2Proof/WellFormed.lean ====
section
/-! DEFINITION. Which terms of `Instr` are instructions of this hardware. -/
namespace Sys2Proof

/-- An immediate of either width is legal at every value (R133); an unimplemented opcode is one that is not in
`IMPLEMENTED` (R3, R135). -/
def Instr.wf : Instr → Bool
  | .ldB _ => true
  | .ldA _ => true
  | .xorA => true
  | .jp _ => true
  | .unimplemented op => !Config.implemented.contains op

end Sys2Proof
end

