-- ==== Sys2Proof/Decode.lean ====
section
/-! DEFINITION. The dispatch table, the decoder and the encoder (30_encoding.md, 10_state.md R51). The decoder is
total: it answers an instruction and the bytes after it, or a rejection with a name. -/
namespace Sys2Proof

/-- The four handlers of the dispatch table (R51, R158). -/
inductive Handler where
  | ldB
  | ldA
  | xorA
  | jp
  deriving DecidableEq, Repr

/-- An entry of the dispatch table (R51). -/
inductive DispatchEntry where
  | implemented (h : Handler)
  | unimplemented
  deriving DecidableEq, Repr

/-- The dispatch table, indexed by all 8 bits of the opcode byte (R51, R132, R134). -/
def dispatchTable (op : Byte) : DispatchEntry :=
  if op = 0x06#8 then .implemented .ldB
  else if op = 0x3E#8 then .implemented .ldA
  else if op = 0xAF#8 then .implemented .xorA
  else if op = 0xC3#8 then .implemented .jp
  else .unimplemented

/-- The opcode byte of a handler (R132). -/
def Handler.opcode : Handler → Byte
  | .ldB => 0x06#8
  | .ldA => 0x3E#8
  | .xorA => 0xAF#8
  | .jp => 0xC3#8

/-- The length a handler decides, in bytes (R131, R136). -/
def Handler.length : Handler → Nat
  | .ldB => 2
  | .ldA => 2
  | .xorA => 1
  | .jp => 3

/-- The T-states of a handler's instruction (R300). LD A,n is PRESUMED 7 (D12, log entry 14). -/
def Handler.tStates : Handler → Nat
  | .ldB => 7
  | .ldA => 7
  | .xorA => 4
  | .jp => 10

/-- How many bytes the instruction that begins with `op` occupies, as far as PC shows (R135, R136). -/
def instrLength (op : Byte) : Nat :=
  match dispatchTable op with
  | .implemented h => h.length
  | .unimplemented => 1

/-- `hi ++ lo`, a 16-bit value from its two bytes, that is `lo | (hi << 8)` (R133, R36). -/
def wordOf (lo hi : Byte) : Word := lo.setWidth 16 ||| (hi.setWidth 16 <<< 8)

/-- `v[7:0]` and `v[15:8]` of a 16-bit value (R11, R131). -/
def loByte (v : Word) : Byte := v.setWidth 8
def hiByte (v : Word) : Byte := (v >>> 8).setWidth 8

/-- Why a byte string is no instruction: it ends before the opcode, or before an operand byte. -/
inductive DecodeRejection where
  | noOpcode
  | missingOperand (op : Byte)
  deriving DecidableEq, Repr

/-- Decode the operands of the handler `h` selected by the opcode byte `op` (R131, R133). -/
def decodeOperands (h : Handler) (op : Byte) (rest : List Byte) :
    Except DecodeRejection (Instr × List Byte) :=
  match h, rest with
  | .ldB, n :: rest => .ok (.ldB n, rest)
  | .ldA, n :: rest => .ok (.ldA n, rest)
  | .xorA, rest => .ok (.xorA, rest)
  | .jp, lo :: hi :: rest => .ok (.jp (wordOf lo hi), rest)
  | _, _ => .error (.missingOperand op)

/-- The decoder: byte 0 selects the row, the row's format says which bytes follow (R131, R132, R140). -/
def decode : List Byte → Except DecodeRejection (Instr × List Byte)
  | [] => .error .noOpcode
  | op :: rest =>
    match dispatchTable op with
    | .implemented h => decodeOperands h op rest
    | .unimplemented => .ok (.unimplemented op, rest)

/-- The encoder, from the formats of R131: the bytes of an instruction at increasing addresses. -/
def encode : Instr → List Byte
  | .ldB n => [0x06#8, n]
  | .ldA n => [0x3E#8, n]
  | .xorA => [0xAF#8]
  | .jp nn => [0xC3#8, loByte nn, hiByte nn]
  | .unimplemented op => [op]

/-- The three bytes (the longest instruction, R130) of a table word `w` whose bits from `nbits` up are zero, the
first byte in bits 7..0. -/
def tableWordBytes (nbits w : Nat) : List Byte :=
  let v := w % 2 ^ nbits
  [BitVec.ofNat 8 v, BitVec.ofNat 8 (v / 256), BitVec.ofNat 8 (v / 65536)]

/-- What the decoder reads from a word of the opcode table, numbered as the table numbers its bits. -/
def decodeTableWord (nbits w : Nat) : Option Instr :=
  match decode (tableWordBytes nbits w) with
  | .ok (i, _) => some i
  | .error _ => none

end Sys2Proof
end

