-- ==== Sys2Proof/Machine/State.lean ====
section
/-! DEFINITION. The state of the core (10_state.md, 20_memory.md), the reasons a step can stop, and the state after
reset. -/
namespace Sys2Proof.Machine

/-- The eight slots of the register file by the names of R31. Slot 6 is the flags register F (R32, D17). -/
inductive Slot where
  | b
  | c
  | d
  | e
  | h
  | l
  | f
  | a
  deriving DecidableEq, Repr

/-- The register file `Reg[0..7]`, one byte a slot (R31). `f` is the one cell of F and of slot 6 (R32). -/
structure RegFile where
  b : Byte
  c : Byte
  d : Byte
  e : Byte
  h : Byte
  l : Byte
  f : Byte
  a : Byte
  deriving DecidableEq, Repr

/-- The interrupt mode (R43). -/
inductive IntMode where
  | im0
  | im1
  | im2
  deriving DecidableEq, Repr

/-- The MemorySpace (R70): cells (address, byte), addresses strictly rising, no cell equal to what an unlisted
address reads as (`Memory.wf`). -/
abbrev Memory := List Host.Cell

/-- Why a run has no meaning past a point. -/
inductive Refusal where
  /-- Raised by `exec` for an instruction that has no meaning yet. No arm of this model raises it. Safe. -/
  | notModelled (mnemonic : String)
  /-- Code 3 (R152, R153, R214, R240): an instruction byte's read hit no mapping. Raised by the fetch and by the
  disassembler; unreachable under the default map (R89). Safe: the model stops where the source reads a sentinel. -/
  | unmappedFetch (addr : Word)
  /-- Code 4 (R154, R200, R240): a word operand starts at PC = 0xFFFF. Raised by JP nn with its opcode at 0xFFFE.
  Safe: the model stops where the source goes on in one of two ways. -/
  | wordFetchAtTop (pc : Word)
  /-- Code 5 (R90, R91, R103, R240): a relative address below zero, with the address and the mapping's bounds.
  Raised by the routers under `SOURCE_OR` only. Safe. -/
  | negativeRelativeAddress (addr first last : Nat)
  /-- Code 6 (R73, R240): a bulk load past the end of the space. Raised by `SpaceLoad`; LoadROM never issues one
  (R285). Safe. -/
  | loadOutOfRange (offset length : Nat)
  /-- Raised by the fetch if the bytes it gathered for an opcode are no instruction. Unreachable: it gathers as many
  bytes as the opcode's length says (R136). Safe. -/
  | undecodable (op : Byte)
  deriving DecidableEq, Repr

/-- The result of a step that did not end `Ok` (R15, R53, R240). -/
inductive StopOutcome where
  /-- Code 1: Fatal(UnimplementedOpcode, (op, addr)) (R156, R241). -/
  | unimplementedOpcode (op : Byte) (addr : Word)
  /-- Code 2: Failed(PrefixPathUnsupported, (op, addr)) (R157, R242). -/
  | prefixPathUnsupported (op : Byte) (addr : Word)
  /-- Codes 3 to 6: Refused(reason) (R244). -/
  | refused (reason : Refusal)
  deriving DecidableEq, Repr

/-- The run status (R53). `stopped none` is the status from Init to the first Reset, which no outcome caused
(R284). -/
inductive RunStatus where
  | running
  | stopped (why : Option StopOutcome)
  deriving DecidableEq, Repr

/-- Why the machine has no step. -/
inductive Fault where
  /-- A step of a core whose run status is `Stopped` (R151, R247): a stuck state, left only by Reset. Raised by
  `step`. Safe: the model says nothing of what the source does after a `false` return (D9). -/
  | coreStopped (why : Option StopOutcome)
  deriving DecidableEq, Repr

/-- The categories of the log output (R8). -/
inductive LogCategory where
  | debug
  | info
  | warning
  | error
  | fatal
  deriving DecidableEq, Repr

/-- One thing the core puts out (R8): a log line, of which the spec fixes the category and at most a phrase it
contains (N20), or a colour driven to the render output (R104). -/
inductive Output where
  | log (category : LogCategory) (contains : String)
  | border (colour : Rgb)
  deriving DecidableEq, Repr

/-- The state (R30). The last three fields are the model's own: the configuration parameter `HIT_MODE` (log entry 6),
the counter of free values drawn (log entry 4) and the outputs so far, oldest first (log entry 9). -/
structure State where
  /-- `Reg` (R31). -/
  regs : RegFile
  /-- `Reg'`, the alternate set (R35). -/
  alt : RegFile
  /-- `IX` (R37). -/
  ix : Word
  /-- `IY` (R37). -/
  iy : Word
  /-- `SP` (R38). -/
  sp : Word
  /-- `PC` (R39). -/
  pc : Word
  /-- `I` (R40). -/
  i : Byte
  /-- `R` (R41). -/
  r : Byte
  /-- `IFF1` (R42). -/
  iff1 : Bool
  /-- `IFF2` (R42). -/
  iff2 : Bool
  /-- `IM` (R43). -/
  im : IntMode
  /-- `IntPending` (R44). -/
  intPending : Bool
  /-- `NMIPending` (R44). -/
  nmiPending : Bool
  /-- `IntLock` (R45). -/
  intLock : Bool
  /-- `Modifier` (R46). -/
  modifier : Byte
  /-- `Halted` (R47). -/
  halted : Bool
  /-- `clock`, in T-states (R48). -/
  clock : Nat
  /-- The MemorySpace (R70). -/
  mem : Memory
  /-- `BorderReg` (R104). -/
  border : Byte
  /-- The run status (R53). -/
  status : RunStatus
  /-- `HIT_MODE` (R9, R85). -/
  hitMode : HitMode
  /-- How many free values have been drawn. -/
  draws : Nat
  /-- The outputs so far. -/
  out : List Output
  deriving DecidableEq, Repr

/-- Every slot 0x00 (R31, R35). -/
def RegFile.zero : RegFile := ⟨0#8, 0#8, 0#8, 0#8, 0#8, 0#8, 0#8, 0#8⟩

/-- The state right after Reset (R282). DESIGN CHOICE where the spec gives a draw: clock 0 (log entry 2), border 0x00
(log entry 3), no byte listed (log entry 1). DESIGN CHOICE for the model's own fields: the default `HIT_MODE` (log
entry 6), no draw yet (log entry 4), no output yet (log entry 9). -/
def State.reset : State where
  regs := RegFile.zero
  alt := RegFile.zero
  ix := 0#16
  iy := 0#16
  sp := 0#16
  pc := 0#16
  i := 0#8
  r := 0#8
  iff1 := false
  iff2 := false
  im := .im0
  intPending := false
  nmiPending := false
  intLock := false
  modifier := 0#8
  halted := false
  clock := 0
  mem := []
  border := 0#8
  status := .running
  hitMode := .closedAnd
  draws := 0
  out := []

end Sys2Proof.Machine
end

