-- ==== Sys2Proof/Machine/Ops.lean ====
section
/-! DEFINITION. The named operations over memory and registers, the advance of PC and clock, and how a run stops. -/
namespace Sys2Proof.Machine

/-! ### One byte of memory -/

/-- What an address nothing has written reads as. DESIGN CHOICE, unsafe at `State.reset` (log entry 1): the spec gives
the draw `INIT_MEMORY` (R75), which is every canonical memory, and a statement over all states covers each. -/
def Memory.unlisted : Byte := 0x00#8

/-- The byte at an address. -/
def Memory.read : Memory → Nat → Byte
  | [], _ => Memory.unlisted
  | (k, v) :: rest, a => if k = a then v else Memory.read rest a

/-- The memory with the byte `v` at the address `a`, in canonical form. -/
def Memory.write : Memory → Nat → Byte → Memory
  | [], a, v => if v = Memory.unlisted then [] else [(a, v)]
  | (k, x) :: rest, a, v =>
    if a < k then (if v = Memory.unlisted then (k, x) :: rest else (a, v) :: (k, x) :: rest)
    else if a = k then (if v = Memory.unlisted then rest else (a, v) :: rest)
    else (k, x) :: Memory.write rest a v

/-- The canonical form of the cells at or above `lo`. -/
def Memory.wfFrom : Nat → Memory → Bool
  | _, [] => true
  | lo, (k, v) :: rest =>
    decide (lo ≤ k) && decide (k < Config.memSize) && decide (v ≠ Memory.unlisted) && Memory.wfFrom (k + 1) rest

/-- The canonical form: addresses strictly rising and in the space, no cell equal to the unlisted byte. -/
def Memory.wf (m : Memory) : Bool := Memory.wfFrom 0 m

/-! ### The MemorySpace primitives -/

/-- The access widths, 1, 2, 4 and 8 bytes (R8, R71). -/
inductive Width where
  | w8
  | w16
  | w32
  | w64
  deriving DecidableEq, Repr

/-- The width in bytes. -/
def Width.bytes : Width → Nat
  | .w8 => 1
  | .w16 => 2
  | .w32 => 4
  | .w64 => 8

/-- The sum of R71: `n` bytes from `a`, the lowest address least significant (R110). -/
def Memory.readLe (m : Memory) : Nat → Nat → Nat
  | _, 0 => 0
  | a, n + 1 => (m.read a).toNat + 256 * Memory.readLe m (a + 1) n

/-- The loop of R72: the low `n` bytes of `v` from `a` on, least significant first (R110). -/
def Memory.writeLe : Memory → Nat → Nat → Nat → Memory
  | m, _, 0, _ => m
  | m, a, n + 1, v => Memory.writeLe (m.write a (BitVec.ofNat 8 v)) (a + 1) n (v / 256)

/-- Whether an access of `n` bytes at `phys` lies in the space, without wrap-around (R71, R72, D35). -/
def Memory.inRange (phys n : Nat) : Bool := decide (phys + n - 1 ≤ Config.maxAddress)

/-- `SpaceRead(phys, n)` (R71): `none` leaves the caller's value untouched. -/
def Memory.spaceRead (m : Memory) (phys : Nat) (w : Width) : Option (BitVec (8 * w.bytes)) :=
  if Memory.inRange phys w.bytes then some (BitVec.ofNat (8 * w.bytes) (m.readLe phys w.bytes)) else none

/-- `SpaceWrite(phys, n, v)` (R72): all or nothing. -/
def Memory.spaceWrite (m : Memory) (phys : Nat) (w : Width) (v : BitVec (8 * w.bytes)) : Memory :=
  if Memory.inRange phys w.bytes then m.writeLe phys w.bytes v.toNat else m

/-- The loop of R73. -/
def Memory.copyIn : Memory → Nat → List Byte → Memory
  | m, _, [] => m
  | m, a, v :: rest => Memory.copyIn (m.write a v) (a + 1) rest

/-- `SpaceLoad(offset, data)` (R73): refused past the end of the space (D21). -/
def Memory.spaceLoad (m : Memory) (offset : Nat) (data : List Byte) : Except Refusal Memory :=
  if offset + data.length - 1 ≤ Config.maxAddress then .ok (m.copyIn offset data)
  else .error (.loadOutOfRange offset data.length)

/-! ### Registers -/

/-- The index of a slot (R31). -/
def Slot.index : Slot → Nat
  | .b => 0
  | .c => 1
  | .d => 2
  | .e => 3
  | .h => 4
  | .l => 5
  | .f => 6
  | .a => 7

/-- `Reg[i]`, read. -/
def RegFile.get (r : RegFile) : Slot → Byte
  | .b => r.b
  | .c => r.c
  | .d => r.d
  | .e => r.e
  | .h => r.h
  | .l => r.l
  | .f => r.f
  | .a => r.a

/-- `Reg[i] <- v`. Every slot is writable and none is hardwired (R31). -/
def RegFile.set (r : RegFile) (x : Slot) (v : Byte) : RegFile :=
  match x with
  | .b => { r with b := v }
  | .c => { r with c := v }
  | .d => { r with d := v }
  | .e => { r with e := v }
  | .h => { r with h := v }
  | .l => { r with l := v }
  | .f => { r with f := v }
  | .a => { r with a := v }

/-- The register pairs (R36). -/
inductive RegPair where
  | af
  | bc
  | de
  | hl
  deriving DecidableEq, Repr

/-- The first register of a pair, which holds the high byte (R36). -/
def RegPair.high : RegPair → Slot
  | .af => .a
  | .bc => .b
  | .de => .d
  | .hl => .h

/-- The second register of a pair, which holds the low byte (R36). -/
def RegPair.low : RegPair → Slot
  | .af => .f
  | .bc => .c
  | .de => .e
  | .hl => .l

/-- A pair read: `X ++ Y` (R36). -/
def RegFile.getPair (r : RegFile) (p : RegPair) : Word := wordOf (r.get p.low) (r.get p.high)

/-- `SetXY(v)` (R36): the high byte to the first register of the pair. -/
def RegFile.setPair (r : RegFile) (p : RegPair) (v : Word) : RegFile :=
  (r.set p.high (hiByte v)).set p.low (loByte v)

/-- A general register of the state, read. -/
def State.reg (s : State) (x : Slot) : Byte := s.regs.get x

/-- A general register of the state, written. -/
def State.setReg (s : State) (x : Slot) (v : Byte) : State := { s with regs := s.regs.set x v }

/-- `PC <- v` (R39). -/
def State.setPc (s : State) (v : Word) : State := { s with pc := v }

/-- `clock <- clock + n` (R13, R48). -/
def State.tick (s : State) (n : Nat) : State := { s with clock := s.clock + n }

/-- `R <- draw R_AFTER_STEP` (R41, R150, D10): a free value. -/
def State.drawR (s : State) : State := { s with r := Config.rAfterStep s.draws, draws := s.draws + 1 }

/-- The MemorySpace replaced. -/
def State.setMem (s : State) (m : Memory) : State := { s with mem := m }

/-- An output of the core (R8). -/
def State.emit (s : State) (o : List Output) : State := { s with out := s.out ++ o }

/-- What a step has done once it has fetched its opcode byte: PC is one past it, modulo 2^16, and R holds a draw
(R150, R152). -/
def State.fetched (s : State) : State := (s.setPc (s.pc + 1#16)).drawR

/-! ### How a run stops

The core's only exception mechanism (60_exceptions.md): nothing is saved, no mode changes and control goes nowhere
(R247). There is no return from it but Reset (R248). -/

/-- The code of an outcome (R240). 0 stands for the two refusals that are not the spec's. -/
def StopOutcome.code : StopOutcome → Nat
  | .unimplementedOpcode _ _ => 1
  | .prefixPathUnsupported _ _ => 2
  | .refused (.unmappedFetch _) => 3
  | .refused (.wordFetchAtTop _) => 4
  | .refused (.negativeRelativeAddress _ _ _) => 5
  | .refused (.loadOutOfRange _ _) => 6
  | .refused _ => 0

/-- The log lines of an outcome: only the Fatal one has a line (R156, R157). -/
def StopOutcome.logLines : StopOutcome → List Output
  | .unimplementedOpcode _ _ => [.log .fatal "Cannot decode instruction"]
  | .prefixPathUnsupported _ _ => []
  | .refused _ => []

/-- Stop the run with an outcome (R156, R157, R247): the status, and the outcome's log lines. -/
def State.stop (s : State) (o : StopOutcome) : State :=
  { s with status := .stopped (some o), out := s.out ++ o.logLines }

/-- The unimplemented-opcode fault at the state that fetches `op` (R156). -/
def State.unimplementedOpcode (s : State) (op : Byte) : State := s.fetched.stop (.unimplementedOpcode op s.pc)

/-- The prefix-pending failure at the state that fetches `op` (R157). -/
def State.prefixPath (s : State) (op : Byte) : State := s.fetched.stop (.prefixPathUnsupported op s.pc)

/-- The end state of a step that was refused (R244, R247): PC is one past the last byte read, R holds its draw if the
opcode was fetched. -/
def State.refuseStep (s : State) : Refusal → State
  | .unmappedFetch a =>
    if a = s.pc then (s.setPc (a + 1#16)).stop (.refused (.unmappedFetch a))
    else (s.fetched.setPc (a + 1#16)).stop (.refused (.unmappedFetch a))
  | .wordFetchAtTop p => s.fetched.stop (.refused (.wordFetchAtTop p))
  | r => s.stop (.refused r)

/-- `Reset()` (R281) with the draw `CLOCK_AT_RESET`: the register model to zero, the status to Running; memory,
BorderReg, the configuration, the outputs and the count of draws stay. -/
def State.hostReset (s : State) (clockDraw : Nat) : State :=
  { s with
    regs := RegFile.zero, alt := RegFile.zero, ix := 0#16, iy := 0#16, sp := 0#16, pc := 0#16, i := 0#8, r := 0#8,
    iff1 := false, iff2 := false, im := .im0, intPending := false, nmiPending := false, intLock := false,
    modifier := 0#8, halted := false, clock := clockDraw, status := .running }

end Sys2Proof.Machine
end

