-- ==== Sys2Proof/Machine/Router.lean ====
section
/-! DEFINITION. The ROM and RAM views, the memory router, the I/O router and the border device (20_memory.md). -/
namespace Sys2Proof.Machine

/-- A view: a window into the MemorySpace (R76), and whether it forwards writes (R77, R78). -/
structure View where
  offset : Nat
  size : Nat
  writable : Bool
  deriving DecidableEq, Repr

/-- `StartAddress()` (R76). -/
def View.startAddress (v : View) : Nat := v.offset

/-- `EndAddress()` (R76). -/
def View.endAddress (v : View) : Nat := v.offset + v.size - 1

/-- The ROM view (R77). -/
def romView : View := ⟨Config.romStart, Config.romSize, false⟩

/-- The RAM view (R78). -/
def ramView : View := ⟨Config.ramStart, Config.ramSize, true⟩

/-- `Read(rel, n)` of a view (R77, R78): no check against the view's own size (R79). -/
def View.read (v : View) (m : Memory) (rel : Nat) (w : Width) : Option (BitVec (8 * w.bytes)) :=
  m.spaceRead (rel + v.offset) w

/-- `Write(rel, n, v)` of a view (R77, R78): ROM does nothing. -/
def View.write (v : View) (m : Memory) (rel : Nat) (w : Width) (x : BitVec (8 * w.bytes)) : Memory :=
  if v.writable then m.spaceWrite (rel + v.offset) w x else m

/-- A mapping record `(device, start, end)` (R84). -/
structure Mapping (δ : Type) where
  device : δ
  first : Nat
  last : Nat
  deriving DecidableEq, Repr

/-- The mapping record of a view (R76, R84). -/
def View.mapping (v : View) : Mapping View := ⟨v, v.startAddress, v.endAddress⟩

/-- `IsHit(m, a)` (R85). -/
def Mapping.isHit {δ : Type} (m : Mapping δ) (mode : HitMode) (a : Nat) : Bool :=
  match mode with
  | .closedAnd => decide (m.first ≤ a) && decide (a ≤ m.last)
  | .sourceOr => decide (m.first ≤ a) || decide (a < m.last)

/-- The first mapping in insertion order that the address hits (R86, R89). -/
def firstHit {δ : Type} (mode : HitMode) : List (Mapping δ) → Nat → Option (Mapping δ)
  | [], _ => none
  | m :: rest, a => if m.isHit mode a then some m else firstHit mode rest a

/-- Where a router access goes: no mapping, or a device with the address relative to the mapping's start, refused
when it is below zero (R86, R87, R90). -/
def route {δ : Type} (mode : HitMode) (maps : List (Mapping δ)) (a : Nat) : Except Refusal (Option (δ × Nat)) :=
  match firstHit mode maps a with
  | none => .ok none
  | some m =>
    if m.first ≤ a then .ok (some (m.device, a - m.first))
    else .error (.negativeRelativeAddress a m.first m.last)

/-- The default memory map (R88, R117). -/
def memoryMap : List (Mapping View) := [romView.mapping, ramView.mapping]

/-- `MemRead(a, n)` (R90). `none` is "untouched" (R89). -/
def State.memRead (s : State) (a : Word) (w : Width) : Except Refusal (Option (BitVec (8 * w.bytes))) :=
  match route s.hitMode memoryMap a.toNat with
  | .error r => .error r
  | .ok none => .ok none
  | .ok (some (v, rel)) => .ok (v.read s.mem rel w)

/-- `MemWrite(a, n, v)` (R91): dropped where no mapping hits. -/
def State.memWrite (s : State) (a : Word) (w : Width) (x : BitVec (8 * w.bytes)) : Except Refusal State :=
  match route s.hitMode memoryMap a.toNat with
  | .error r => .error r
  | .ok none => .ok s
  | .ok (some (v, rel)) => .ok (s.setMem (v.write s.mem rel w x))

/-- The one I/O device (R103). -/
inductive IoDevice where
  | border
  deriving DecidableEq, Repr

/-- The default I/O map (R103, R117). -/
def ioMap : List (Mapping IoDevice) := [⟨.border, Config.borderPort, Config.borderPort⟩]

/-- `Border.Read(rel)` (R105): the draw `IO_READ_FE`, a fresh free value at each read. -/
def State.borderRead (s : State) : Byte × State := (Config.ioReadFe s.draws, { s with draws := s.draws + 1 })

/-- `Border.Write(rel, v)` (R104): BorderReg, and the colour driven to the render output. -/
def State.borderWrite (s : State) (v : Byte) : State :=
  { s with border := v, out := s.out ++ [.border (Config.borderRgb v)] }

/-- `IORead(p)` (R101): `none` leaves the caller's sentinel. The relative offset is not used (R104). -/
def State.ioRead (s : State) (p : Byte) : Except Refusal (Option Byte × State) :=
  match route s.hitMode ioMap p.toNat with
  | .error r => .error r
  | .ok none => .ok (none, s)
  | .ok (some (.border, _)) => .ok (some s.borderRead.1, s.borderRead.2)

/-- `IOWrite(p, v)` (R102). -/
def State.ioWrite (s : State) (p v : Byte) : Except Refusal State :=
  match route s.hitMode ioMap p.toNat with
  | .error r => .error r
  | .ok none => .ok s
  | .ok (some (.border, _)) => .ok (s.borderWrite v)

end Sys2Proof.Machine
end

