-- ==== Sys2Proof/Machine/Operands.lean ====
section
/-! DEFINITION. The instruction-stream reads of 40_dispatch.md and the fetch of one instruction's bytes.

The spec's handlers read their operand bytes while they run; the model gathers an instruction's bytes first, decodes
them and then runs it. `Sys2Proof/Machine/Pseudocode.lean` holds the spec's own order (log entry 20). -/
namespace Sys2Proof.Machine

/-- A 1-byte `MemRead` of an instruction byte, refused where no mapping hits (R152, R153). -/
def State.fetchByte (s : State) (a : Word) : Except Refusal Byte :=
  match s.memRead a .w8 with
  | .error r => .error r
  | .ok none => .error (.unmappedFetch a)
  | .ok (some v) => .ok (v.setWidth 8)

/-- The bytes at `n` addresses from `a` on, modulo 2^16 (R130, R152). -/
def State.fetchBytes (s : State) : Nat → Word → Except Refusal (List Byte)
  | 0, _ => .ok []
  | n + 1, a =>
    match s.fetchByte a with
    | .error r => .error r
    | .ok b =>
      match State.fetchBytes s n (a + 1#16) with
      | .error r => .error r
      | .ok bs => .ok (b :: bs)

/-- The bytes the space holds at `n` addresses from `a` on, modulo 2^16: what the fetch reads under the default map
(R92, R93). -/
def Memory.bytesAt (m : Memory) : Nat → Word → List Byte
  | 0, _ => []
  | n + 1, a => m.read a.toNat :: Memory.bytesAt m n (a + 1#16)

/-- The instruction at PC whose opcode byte `op` has been read: as many bytes after it as the opcode's length says
(R136), decoded. With the opcode these are at most 3 reads (R162). -/
def State.fetchInstr (s : State) (op : Byte) : Except Refusal Instr :=
  match s.fetchBytes (instrLength op - 1) (s.pc + 1#16) with
  | .error r => .error r
  | .ok bytes =>
    match decode (op :: bytes) with
    | .error _ => .error (.undecodable op)
    | .ok (i, _) => .ok i

/-- `ReadOpcodeByte()` (R152): the byte at PC, and PC advanced by 1. -/
def State.readOpcodeByte (s : State) : Except Refusal (Byte × State) :=
  match s.fetchByte s.pc with
  | .error r => .error r
  | .ok v => .ok (v, s.setPc (s.pc + 1#16))

/-- `ReadByte()` (R153): the same operation. -/
def State.readByte (s : State) : Except Refusal (Byte × State) := s.readOpcodeByte

/-- `ReadWord()` (R154): low byte first, refused at PC = 0xFFFF. -/
def State.readWord (s : State) : Except Refusal (Word × State) :=
  if s.pc = 0xFFFF#16 then .error (.wordFetchAtTop s.pc)
  else
    match s.readByte with
    | .error r => .error r
    | .ok (lo, s1) =>
      match s1.readByte with
      | .error r => .error r
      | .ok (hi, s2) => .ok (wordOf lo hi, s2)

/-- What `ReadByte()` does to the state of a handler whose operand byte is already decoded (R153). -/
def State.passByte (s : State) : State := s.setPc (s.pc + 1#16)

/-- What `ReadWord()` does to the state of a handler whose operand word is already decoded (R154). -/
def State.passWord (s : State) : Except Refusal State :=
  if s.pc = 0xFFFF#16 then .error (.wordFetchAtTop s.pc) else .ok (s.setPc (s.pc + 2#16))

/-- Store instruction bytes from the address `a` on, modulo 2^16, straight into the MemorySpace, as a load from
outside does (R73: it bypasses the views). -/
def Memory.placeBytes : Memory → Word → List Byte → Memory
  | m, _, [] => m
  | m, a, v :: rest => Memory.placeBytes (m.write a.toNat v) (a + 1#16) rest

end Sys2Proof.Machine
end

