-- ==== Sys2Proof/Machine/Jump.lean ====
section
/-! DEFINITION. The jump family (43_jump.md). -/
namespace Sys2Proof.Machine

/-- `JP nn` (R200): ReadWord, then PC. F is not written (PRESUMED, D11, log entry 15). With the opcode at 0xFFFE the word starts at 0xFFFF, and the spec gives no
meaning (R154). -/
def execJp (nn : Word) (s : State) : Host.Outcome State Fault Refusal :=
  match s.fetched.passWord with
  | .error r => .refused r
  | .ok t => .next ((t.setPc nn).tick Handler.jp.tStates)

end Sys2Proof.Machine
end

