-- ==== Sys2Proof/Machine/LoadImmediate.lean ====
section
/-! DEFINITION. The load-immediate family (41_load_immediate.md). -/
namespace Sys2Proof.Machine

/-- A load of a decoded immediate into a register, over both members: ReadByte, the register, the clock; F is not
written (R180, R181; PRESUMED, D11, log entry 15). -/
def State.loadImmediate (s : State) (dest : Slot) (n : Byte) (h : Handler) : State :=
  (s.fetched.passByte.setReg dest n).tick h.tStates

/-- `LD B,n` (R180). -/
def execLdB (n : Byte) (s : State) : Host.Outcome State Fault Refusal := .next (s.loadImmediate .b n .ldB)

/-- `LD A,n` (R181). -/
def execLdA (n : Byte) (s : State) : Host.Outcome State Fault Refusal := .next (s.loadImmediate .a n .ldA)

end Sys2Proof.Machine
end

