-- ==== Sys2Proof/Machine/Flags.lean ====
section
/-! DEFINITION. The flag bits of F and the flags table (10_state.md R33, R50; 42_logic.md R190). -/
namespace Sys2Proof.Machine

/-- The flags by name (R33). -/
inductive Flag where
  | s
  | z
  | y
  | h
  | x
  | pv
  | n
  | c
  deriving DecidableEq, Repr

/-- The bit of F a flag stands in. PRESUMED: the standard Z80 layout, which the spec takes from general knowledge
(R33, D18, log entry 13). -/
def Flag.bit : Flag → Nat
  | .s => 7
  | .z => 6
  | .y => 5
  | .h => 4
  | .x => 3
  | .pv => 2
  | .n => 1
  | .c => 0

/-- A flag of a byte of F. -/
def flagOf (f : Byte) (flag : Flag) : Bool := f.getLsbD flag.bit

/-- A flag of the state. -/
def State.flag (s : State) (flag : Flag) : Bool := flagOf (s.reg .f) flag

/-- The folding XOR of all bits of a byte (R50): false on even parity. -/
def oddParity (v : Byte) : Bool :=
  v.getLsbD 7 ^^ v.getLsbD 6 ^^ v.getLsbD 5 ^^ v.getLsbD 4 ^^ v.getLsbD 3 ^^ v.getLsbD 2 ^^ v.getLsbD 1 ^^ v.getLsbD 0

/-- `FlagsTable(v)` (R50): S, Y and X copied from the result, Z forced for 0, P/V on even parity, H = N = C = 0. -/
def flagsTable (v : Byte) : Byte :=
  (v &&& 0xA8#8) ||| (if v = 0x00#8 then 0x40#8 else 0x00#8) ||| (if oddParity v then 0x00#8 else 0x04#8)

/-- The `XOR(op1, op2, dest)` helper (R190): `dest <- op1 ^ op2`, then all of F from the flags table. -/
def State.xorHelper (s : State) (op1 op2 : Byte) (dest : Slot) : State :=
  (s.setReg dest (op1 ^^^ op2)).setReg .f (flagsTable (op1 ^^^ op2))

end Sys2Proof.Machine
end

