-- ==== Sys2Proof/Machine/Logic.lean ====
section
/-! DEFINITION. The logic family (42_logic.md). -/
namespace Sys2Proof.Machine

/-- `XOR A` (R192): A with itself through the helper of R190, which writes all of F. -/
def execXorA (s : State) : Host.Outcome State Fault Refusal :=
  .next ((s.fetched.xorHelper (s.reg .a) (s.reg .a) .a).tick Handler.xorA.tStates)

end Sys2Proof.Machine
end

