-- ==== Sys2Proof/Machine/Unimplemented.lean ====
section
/-! DEFINITION. The 252 opcode bytes with no handler (40_dispatch.md R156, 60_exceptions.md R241). -/
namespace Sys2Proof.Machine

/-- The fatal unimplemented-opcode fault: the step's own state, with the run stopped (R156, R247). -/
def execUnimplemented (op : Byte) (s : State) : Host.Outcome State Fault Refusal := .next (s.unimplementedOpcode op)

end Sys2Proof.Machine
end

