-- ==== Sys2Proof/Machine/Dispatch.lean ====
section
/-! DEFINITION. The dispatch of a decoded instruction to its meaning (R51, R158), one arm a constructor. The state
handed to a meaning is that of the start of the step: PC is the address of the opcode byte. -/
namespace Sys2Proof.Machine

def exec (i : Instr) (s : State) : Host.Outcome State Fault Refusal :=
  match i with
  | .ldB n => Sys2Proof.Machine.execLdB n s
  | .ldA n => Sys2Proof.Machine.execLdA n s
  | .xorA => Sys2Proof.Machine.execXorA s
  | .jp nn => Sys2Proof.Machine.execJp nn s
  | .unimplemented op => Sys2Proof.Machine.execUnimplemented op s

end Sys2Proof.Machine
end

