-- ==== Sys2Proof/Machine/Step.lean ====
section
/-! DEFINITION. One step of the core (40_dispatch.md R150), and the placing of an instruction where it is fetched. -/
namespace Sys2Proof.Machine

/-- One step (R150): a stopped core has none (R151); the opcode byte; the Modifier, before any lookup (R155, R157);
then the instruction. The order of the outcomes is R246's. -/
def step (s : State) : Host.Outcome State Fault Refusal :=
  match s.status with
  | .stopped why => .fault (.coreStopped why)
  | .running =>
    match s.fetchByte s.pc with
    | .error r => .refused r
    | .ok op =>
      if s.modifier = 0x00#8 then
        match s.fetchInstr op with
        | .error r => .refused r
        | .ok i => exec i s
      else .next (s.prefixPath op)

/-- The state with a table word's bytes stored at PC. It stands for a program loaded from outside (log entry 21), so it
writes the MemorySpace itself, which the ROM view's write protection does not cover (R73). -/
def State.withFetchWord (s : State) (nbits w : Nat) : State := s.setMem (s.mem.placeBytes s.pc (tableWordBytes nbits w))

end Sys2Proof.Machine
end

