-- ==== Sys2Proof/Machine/Pseudocode.lean ====
section
/-! DEFINITION. The step as the spec's pseudocode writes it (40_dispatch.md R150, R152 to R158): the opcode byte
selects a handler, and the handler reads its own operand bytes from memory while it runs. It is a second definition of
the same machine, and an obligation states that the two agree. -/
namespace Sys2Proof.Machine

/-- The pseudocode of a handler, run after the opcode fetch (R180, R181, R192, R200). -/
def runHandler (h : Handler) (s : State) : Host.Outcome State Fault Refusal :=
  match h with
  | .ldB =>
    match s.readByte with
    | .error r => .refused r
    | .ok (n, t) => .next ((t.setReg .b n).tick 7)
  | .ldA =>
    match s.readByte with
    | .error r => .refused r
    | .ok (n, t) => .next ((t.setReg .a n).tick 7)
  | .xorA => .next ((s.xorHelper (s.reg .a) (s.reg .a) .a).tick 4)
  | .jp =>
    match s.readWord with
    | .error r => .refused r
    | .ok (nn, t) => .next ((t.setPc nn).tick 10)

/-- The pseudocode of a step (R150). -/
def pseudoStep (s : State) : Host.Outcome State Fault Refusal :=
  match s.status with
  | .stopped why => .fault (.coreStopped why)
  | .running =>
    match s.readOpcodeByte with
    | .error r => .refused r
    | .ok (op, t) =>
      if t.drawR.modifier ≠ 0x00#8 then .next (t.drawR.stop (.prefixPathUnsupported op s.pc))
      else
        match dispatchTable op with
        | .unimplemented => .next (t.drawR.stop (.unimplementedOpcode op s.pc))
        | .implemented h => runHandler h t.drawR

end Sys2Proof.Machine
end

