-- ==== Sys2Proof/Machine/Disassembler.lean ====
section
/-! DEFINITION. The disassembler's prefix-scan decoder (45_disassembler.md). It keeps no state between calls (R52). -/
namespace Sys2Proof.Machine

/-! ### The instruction tables -/

/-- The tables of R212, with the empty table of the last row of R213 (D23). -/
inductive InstrTable where
  | standard
  | ed
  | ddfd
  | cb
  | ddfdcb
  | ddfded
  deriving DecidableEq, Repr

/-- How many entries a table holds (R212): only `Standard` is populated. -/
def InstrTable.size : InstrTable → Nat
  | .standard => 256
  | .ed => 0
  | .ddfd => 0
  | .cb => 0
  | .ddfdcb => 0
  | .ddfded => 0

/-- The table for a resolved prefix pair (R213). -/
def selectTable (ddfd edcb : Option Byte) : InstrTable :=
  match ddfd, edcb with
  | none, none => .standard
  | none, some p => if p = 0xED#8 then .ed else .cb
  | some _, none => .ddfd
  | some _, some p => if p = 0xCB#8 then .ddfdcb else .ddfded

/-- The `Standard` table (R223): the four entries the spec gives, and `DISASM_STANDARD_TABLE` for the rest. XOR A uses
no operator type, so its entry's is without effect (R211, D26). -/
def standardTable (op : Byte) : InstrDef :=
  if op = 0x3E#8 then ⟨['L', 'D'], .direct8Bit, .symbol ['A'], .symbol ['$', 'n', 'n']⟩
  else if op = 0x06#8 then ⟨['L', 'D'], .direct8Bit, .symbol ['B'], .symbol ['$', 'n', 'n']⟩
  else if op = 0xAF#8 then ⟨['X', 'O', 'R'], .direct8Bit, .symbol ['A'], .none⟩
  else if op = 0xC3#8 then ⟨['J', 'P'], .address, .symbol ['$', 'n', 'n', 'n', 'n'], .none⟩
  else Config.disasmStandardTable op

/-- A table's entry, absent past its size (R216). -/
def InstrTable.entry (t : InstrTable) (op : Byte) : Option InstrDef :=
  if op.toNat < t.size then some (standardTable op) else none

/-! ### The cursor and the prefix scan -/

/-- `Next()` (R214): the byte at the cursor through the memory router, and the cursor advanced modulo 2^16. -/
def State.nextByte (s : State) (cursor : Word) : Except Refusal (Byte × Word) :=
  match s.fetchByte cursor with
  | .error r => .error r
  | .ok v => .ok (v, cursor + 1#16)

/-- Where the scan stands: the prefixes seen, the byte last read and the cursor. -/
structure Scan where
  ddfd : Option Byte
  edcb : Option Byte
  byte : Byte
  cursor : Word
  deriving DecidableEq, Repr

/-- The first stage of R215: at most one DD or FD. -/
def State.scanIndex (s : State) (x : Scan) : Except Refusal Scan :=
  if x.byte = 0xDD#8 ∨ x.byte = 0xFD#8 then
    match s.nextByte x.cursor with
    | .error r => .error r
    | .ok (b, c) => .ok ⟨some x.byte, x.edcb, b, c⟩
  else .ok x

/-- The second stage of R215: at most one ED or CB. -/
def State.scanExtended (s : State) (x : Scan) : Except Refusal Scan :=
  if x.byte = 0xED#8 ∨ x.byte = 0xCB#8 then
    match s.nextByte x.cursor with
    | .error r => .error r
    | .ok (b, c) => .ok ⟨x.ddfd, some x.byte, b, c⟩
  else .ok x

/-- The third stage of R215: the displacement byte of the DD/FD CB form stands before the opcode. -/
def State.scanDisplacement (s : State) (x : Scan) : Except Refusal Scan :=
  if x.ddfd ≠ none ∧ x.edcb = some 0xCB#8 then
    match s.nextByte x.cursor with
    | .error r => .error r
    | .ok (b, c) => .ok { x with byte := b, cursor := c }
  else .ok x

/-- The prefix scan of R215. -/
def State.prefixScan (s : State) (start : Word) : Except Refusal Scan :=
  match s.nextByte start with
  | .error r => .error r
  | .ok (b, c) =>
    match s.scanIndex ⟨none, none, b, c⟩ with
    | .error r => .error r
    | .ok x =>
      match s.scanExtended x with
      | .error r => .error r
      | .ok y => s.scanDisplacement y

/-! ### Rendering -/

/-- An uppercase hexadecimal digit (R219). -/
def hexDigit (d : Nat) : Char := Char.ofNat (if d < 10 then 48 + d else 55 + d)

/-- A byte as 2 uppercase hexadecimal digits (R219). -/
def hexByte (v : Byte) : Text := [hexDigit (v.toNat / 16), hexDigit (v.toNat % 16)]

/-- A word as 4 uppercase hexadecimal digits (R220). -/
def hexWord (v : Word) : Text := hexByte (hiByte v) ++ hexByte (loByte v)

/-- A symbol cut at its placeholder run, `nnnn` or `nn` (R218): the text before it and the text after it. -/
def splitPlaceholder : Text → Option (Text × Text)
  | [] => none
  | c :: rest =>
    if ['n', 'n', 'n', 'n'].isPrefixOf (c :: rest) then some ([], rest.drop 3)
    else if ['n', 'n'].isPrefixOf (c :: rest) then some ([], rest.drop 1)
    else
      match splitPlaceholder rest with
      | none => none
      | some (before, after) => some (c :: before, after)

/-- `Format(t)` (R219 to R221): the text of an operand value and the cursor after its bytes. -/
def State.formatValue (s : State) (t : OperatorType) (cursor : Word) : Except Refusal (Text × Word) :=
  match t with
  | .direct8Bit =>
    match s.nextByte cursor with
    | .error r => .error r
    | .ok (v, c) => .ok (hexByte v, c)
  | .direct16Bit | .address =>
    match s.nextByte cursor with
    | .error r => .error r
    | .ok (lo, c) =>
      match s.nextByte c with
      | .error r => .error r
      | .ok (hi, c') => .ok (hexWord (wordOf lo hi), c')
  | .indirect | .pcRelativeAddress | .restartAddress | .indirect8BitDisplacement | .prefixedIndirect => .ok ([], cursor)

/-- `Operand(d, o)` (R217) behind its separator; `None` renders as nothing (R211). -/
def State.renderOperand (s : State) (separator : Char) (t : OperatorType) (o : OperandName) (cursor : Word) :
    Except Refusal (Text × Word) :=
  match o with
  | .none => .ok ([], cursor)
  | .symbol text =>
    match splitPlaceholder text with
    | none => .ok (separator :: text, cursor)
    | some (before, after) =>
      match s.formatValue t cursor with
      | .error r => .error r
      | .ok (v, c) => .ok (separator :: (before ++ v ++ after), c)

/-- What `DecodeInstruction` returns (R210), with the log lines it writes (R216). -/
structure Disassembly where
  ok : Bool
  mnemonic : Text
  length : Nat
  log : List Output
  deriving DecidableEq, Repr

/-- `cursor - start`, modulo 2^16 (R216, R222). -/
def consumed (start cursor : Word) : Nat := (cursor - start).toNat

/-- `Render(d)` (R217): the name, operand 1 after one space, operand 2 after a comma. -/
def State.render (s : State) (d : InstrDef) (start cursor : Word) : Except Refusal Disassembly :=
  match s.renderOperand ' ' d.operatorType d.operand1 cursor with
  | .error r => .error r
  | .ok (text1, c1) =>
    match s.renderOperand ',' d.operatorType d.operand2 c1 with
    | .error r => .error r
    | .ok (text2, c2) => .ok ⟨true, d.name ++ text1 ++ text2, consumed start c2, []⟩

/-- `DecodeInstruction(start)` (R210, R215, R216). The spec gives no text for the Error line, so it names no phrase. -/
def State.decodeInstruction (s : State) (start : Word) : Except Refusal Disassembly :=
  match s.prefixScan start with
  | .error r => .error r
  | .ok x =>
    match (selectTable x.ddfd x.edcb).entry x.byte with
    | none => .ok ⟨false, ['?', '?', '?'], consumed start x.cursor, [.log .error ""]⟩
    | some d => s.render d start x.cursor

end Sys2Proof.Machine
end

