-- ==== Sys2Proof/Machine/HostOps.lean ====
section
/-! DEFINITION. The host operations of the System facade (70_reset_and_hazards.md) and the two routers at their
interface (R8, R106, R113). The host performs each between steps (R121), so each is a function of the state. -/
namespace Sys2Proof.Machine

/-- `Init()` (R284): a core with what `draw` holds in every place the spec leaves open (memory, BorderReg, the register
fields, which nothing may rest on before the first Reset, and the clock), stopped until the first Reset. -/
def State.init (draw : State) : State := { draw with status := .stopped none, out := [] }

/-- `LoadROM(bytes)` (R285): more than `ROM_SIZE` bytes are refused with `false` and no change (R243). -/
def State.loadRom (s : State) (bytes : List Byte) : Except Refusal (Bool × State) :=
  if Config.romSize < bytes.length then .ok (false, s)
  else
    match s.mem.spaceLoad Config.romStart (bytes.take Config.romSize) with
    | .error r => .error r
    | .ok m => .ok (true, s.setMem m)

/-- The registers and flags `DumpRegisters` renders, by name (R257, R288; log entry 12). -/
def State.dumpEntries (s : State) : List DumpEntry :=
  [.hex "B" s.regs.b.toNat, .hex "C" s.regs.c.toNat, .hex "D" s.regs.d.toNat, .hex "E" s.regs.e.toNat,
   .hex "H" s.regs.h.toNat, .hex "L" s.regs.l.toNat, .hex "F" s.regs.f.toNat, .hex "A" s.regs.a.toNat] ++
  [.hex "B'" s.alt.b.toNat, .hex "C'" s.alt.c.toNat, .hex "D'" s.alt.d.toNat, .hex "E'" s.alt.e.toNat,
   .hex "H'" s.alt.h.toNat, .hex "L'" s.alt.l.toNat, .hex "F'" s.alt.f.toNat, .hex "A'" s.alt.a.toNat] ++
  [.hex "IX" s.ix.toNat, .hex "IY" s.iy.toNat, .hex "PC" s.pc.toNat, .hex "SP" s.sp.toNat,
   .hex "I" s.i.toNat, .hex "R" s.r.toNat,
   .hex "IM" (match s.im with | .im0 => 0 | .im1 => 1 | .im2 => 2), .hex "Modifier" s.modifier.toNat] ++
  [.bool "IFF1" s.iff1, .bool "IFF2" s.iff2, .bool "IntPending" s.intPending, .bool "NMIPending" s.nmiPending,
   .bool "IntLock" s.intLock, .bool "Halted" s.halted] ++
  [.bool "S" (s.flag .s), .bool "Z" (s.flag .z), .bool "Y" (s.flag .y), .bool "H flag" (s.flag .h), .bool "P/V" (s.flag .pv),
   .bool "X" (s.flag .x), .bool "N" (s.flag .n), .bool "C flag" (s.flag .c)]

/-- `DumpRegisters()` (R288): the text is open (D33). -/
def State.dumpRegisters (s : State) : Text := Config.dumpText s.dumpEntries

/-- `IsHalted()` (R293): hard-coded false, whatever Halted holds. -/
def State.isHalted (_ : State) : Bool := false

/-- The emulated seconds the host may show (R301). -/
def State.emulatedSeconds (s : State) : Rat := (s.clock : Rat) / (Config.clockFreqHz : Rat)

/-- What the host may ask of the core between steps (R8, R280). The draw of Reset is `CLOCK_AT_RESET` (R281). The value
of a memory write is taken at the access's width (R91). -/
inductive Request where
  | init (draw : State)
  | reset (clockDraw : Nat)
  | loadRom (bytes : List Byte)
  | processInstruction
  | dumpRegisters
  | getCpuClock
  | getCpuClockFreq
  | isHalted
  | decodeInstruction (start : Word)
  | memRead (a : Word) (w : Width)
  | memWrite (a : Word) (w : Width) (v : Nat)
  | ioRead (p : Byte)
  | ioWrite (p v : Byte)
  deriving DecidableEq, Repr

/-- What the host gets back. `noStep` is the answer for a stopped core (R151), `refused` has no counterpart in the
source (R163). -/
inductive Reply where
  | done
  | flag (v : Bool)
  | count (v : Nat)
  | text (v : Text)
  | value (v : Option Nat)
  | disassembly (ok : Bool) (mnemonic : Text) (length : Nat)
  | noStep
  | refused (reason : Refusal)
  deriving DecidableEq, Repr

/-- `ProcessInstruction()` (R163): `true` exactly when the step ended Ok. A refused step is recorded as R247 says. -/
def State.processInstruction (s : State) : State × Reply :=
  match step s with
  | .next t => (t, .flag (decide (t.status = .running)))
  | .fault _ => (s, .noStep)
  | .refused r => (s.refuseStep r, .refused r)

/-- A refused host operation stops the run like any refusal (R244; DEDUCED, safe, log entry 22). On an already stopped
core its refusal replaces the recorded outcome: DESIGN CHOICE, unsafe, the spec is silent (log entry 24). -/
def State.refuseRequest (s : State) (r : Refusal) : State × Reply := (s.stop (.refused r), .refused r)

/-- Perform a request. -/
def State.perform (s : State) (q : Request) : State × Reply :=
  match q with
  | .init draw => (State.init draw, .done)
  | .reset clockDraw => (s.hostReset clockDraw, .done)
  | .loadRom bytes =>
    match s.loadRom bytes with
    | .error r => s.refuseRequest r
    | .ok (ok, t) => (t, .flag ok)
  | .processInstruction => s.processInstruction
  | .dumpRegisters => (s, .text s.dumpRegisters)
  | .getCpuClock => (s, .count s.clock)
  | .getCpuClockFreq => (s, .count Config.clockFreqHz)
  | .isHalted => (s, .flag s.isHalted)
  | .decodeInstruction start =>
    match s.decodeInstruction start with
    | .error r => s.refuseRequest r
    | .ok x => (s.emit x.log, .disassembly x.ok x.mnemonic x.length)
  | .memRead a w =>
    match s.memRead a w with
    | .error r => s.refuseRequest r
    | .ok v => (s, .value (v.map BitVec.toNat))
  | .memWrite a w v =>
    match s.memWrite a w (BitVec.ofNat (8 * w.bytes) v) with
    | .error r => s.refuseRequest r
    | .ok t => (t, .done)
  | .ioRead p =>
    match s.ioRead p with
    | .error r => s.refuseRequest r
    | .ok (v, t) => (t, .value (v.map BitVec.toNat))
  | .ioWrite p v =>
    match s.ioWrite p v with
    | .error r => s.refuseRequest r
    | .ok t => (t, .done)

end Sys2Proof.Machine
end

