-- ==== Sys2Proof/Safety.lean ====
section
/-! DEFINITION. What a safe run is, and the invariants the claims use. -/
namespace Sys2Proof.Machine

/-- The step ended `Ok` (R15, R163): a next state whose run goes on. -/
def State.stepsOk (s t : State) : Prop := step s = .next t ∧ t.status = .running

/-- A run of Ok steps (R292): `Reaches s t` when the core gets from `s` to `t` without a stop. -/
inductive Reaches : State → State → Prop where
  | here (s : State) : Reaches s s
  | onward {s t u : State} (first : s.stepsOk t) (rest : Reaches t u) : Reaches s u

/-- The legal values of Modifier (R46). -/
def State.modifierLegal (s : State) : Prop :=
  s.modifier = 0x00#8 ∨ s.modifier = 0xDD#8 ∨ s.modifier = 0xFD#8

/-- The form every state of this hardware has: memory canonical (log entry 1) and Modifier legal (R46). -/
def State.wellFormed (s : State) : Prop := s.mem.wf = true ∧ s.modifierLegal

/-- The register-model fields no implemented instruction writes, all at their reset value (R31, R35, R37, R38, R40,
R42 to R47, R54, R282). -/
def State.inertAtReset (s : State) : Prop :=
  (s.regs.c = 0#8 ∧ s.regs.d = 0#8 ∧ s.regs.e = 0#8 ∧ s.regs.h = 0#8 ∧ s.regs.l = 0#8) ∧
  s.alt = RegFile.zero ∧ s.ix = 0#16 ∧ s.iy = 0#16 ∧ s.sp = 0#16 ∧ s.i = 0#8 ∧
  s.iff1 = false ∧ s.iff2 = false ∧ s.im = .im0 ∧ s.intPending = false ∧ s.nmiPending = false ∧
  s.intLock = false ∧ s.modifier = 0#8 ∧ s.halted = false

/-- `t` agrees with `s` on every piece of state that no instruction of this hardware writes: the alternate set, the
16-bit registers but PC, the interrupt state, Modifier, Halted, BorderReg, the hit test and every byte of memory (R54). -/
def State.sameBackground (s t : State) : Prop :=
  t.alt = s.alt ∧ t.ix = s.ix ∧ t.iy = s.iy ∧ t.sp = s.sp ∧ t.i = s.i ∧ t.iff1 = s.iff1 ∧ t.iff2 = s.iff2 ∧
  t.im = s.im ∧ t.intPending = s.intPending ∧ t.nmiPending = s.nmiPending ∧ t.intLock = s.intLock ∧
  t.modifier = s.modifier ∧ t.halted = s.halted ∧ t.border = s.border ∧ t.hitMode = s.hitMode ∧
  ∀ a, t.mem.read a = s.mem.read a

/-- F holds what Reset or XOR A left: the only writers of F (R34). -/
def State.flagsFromXor (s : State) : Prop := s.regs.f = 0x00#8 ∨ s.regs.f = 0x44#8

end Sys2Proof.Machine
end

