-- ==== Sys2Proof/Certificates/Slice0/Obligations.lean ====
section
/-! DEFINITION. The statements for the provers, from the spec's numbered rules. Each docstring names the rule it
formalises; where a clause rests on a choice that is not the spec's, it names the log entry. -/

open Sys2Proof Sys2Proof.Machine

/-! ### Encoding -/

/-- Words written out from the formats of 30_encoding.md decode to the instructions they stand for. -/
def Obligations.SpecWordsDecode : Prop :=
  decode [0b00000110#8, 0b00000101#8] = .ok (.ldB 0x05#8, []) ∧
  decode [0b00111110#8, 0b01111111#8] = .ok (.ldA 0x7F#8, []) ∧
  decode [0b10101111#8] = .ok (.xorA, []) ∧
  decode [0b11000011#8, 0b00110100#8, 0b00010010#8] = .ok (.jp 0x1234#16, []) ∧
  decode [0b00000001#8] = .ok (.unimplemented 0x01#8, []) ∧
  decode [0b11011101#8] = .ok (.unimplemented 0xDD#8, [])

/-- Every well-formed instruction decodes from its own encoding, whatever bytes follow, with every operand at every
value. -/
def Obligations.DecodeOfEncode : Prop :=
  ∀ (i : Instr) (rest : List Byte), i.wf = true → decode (encode i ++ rest) = .ok (i, rest)

/-- What the decoder reads is well formed, and the bytes it read are that instruction's encoding. -/
def Obligations.EncodeOfDecode : Prop :=
  ∀ (bytes rest : List Byte) (i : Instr), decode bytes = .ok (i, rest) → i.wf = true ∧ encode i ++ rest = bytes

/-- R51, R134: the implemented entries of the dispatch table stand exactly at the bytes of `IMPLEMENTED`, each with its
own handler. -/
def Obligations.DispatchTableHasFourHandlers : Prop :=
  (∀ (op : Byte) (h : Handler), dispatchTable op = .implemented h ↔ op = h.opcode) ∧
  (∀ op : Byte, dispatchTable op = .unimplemented ↔ op ∉ [0x06#8, 0x3E#8, 0xAF#8, 0xC3#8])

/-! ### Each instruction's own effect -/

/-- LD B,n completes from every state: B, PC by 2, 7 T-states, R a free value, nothing else. That F is kept is PRESUMED
(D11, log entry 15). -/
def Obligations.LoadBCompletes : Prop :=
  ∀ (n : Byte) (s : State),
    exec (.ldB n) s = .next
      { s with
        regs := { s.regs with b := n }, pc := s.pc + 2#16, clock := s.clock + 7,
        r := Config.rAfterStep s.draws, draws := s.draws + 1 }

/-- LD A,n completes from every state. The 7 T-states are PRESUMED (D12, log entry 14), and so is that F is kept (D11,
log entry 15). -/
def Obligations.LoadACompletes : Prop :=
  ∀ (n : Byte) (s : State),
    exec (.ldA n) s = .next
      { s with
        regs := { s.regs with a := n }, pc := s.pc + 2#16, clock := s.clock + 7,
        r := Config.rAfterStep s.draws, draws := s.draws + 1 }

/-- XOR A completes from every state: A = 0x00, F = 0x44, PC by 1, 4 T-states. The value 0x44 rests on the flag
positions, which are PRESUMED (D18, log entry 13). -/
def Obligations.XorACompletes : Prop :=
  ∀ s : State,
    exec .xorA s = .next
      { s with
        regs := { s.regs with a := 0x00#8, f := 0x44#8 }, pc := s.pc + 1#16, clock := s.clock + 4,
        r := Config.rAfterStep s.draws, draws := s.draws + 1 }

/-- JP nn completes from every state whose PC is not 0xFFFE: PC = nn, 10 T-states. That F is kept is PRESUMED (D11, log
entry 15). -/
def Obligations.JumpCompletes : Prop :=
  ∀ (nn : Word) (s : State), s.pc ≠ 0xFFFE#16 →
    exec (.jp nn) s = .next
      { s with
        pc := nn, clock := s.clock + 10, r := Config.rAfterStep s.draws, draws := s.draws + 1 }

/-- R154, R200: JP nn with its opcode at 0xFFFE is refused `WordFetchAtTop`, which records PC = 0xFFFF (R240). -/
def Obligations.JumpRefusedAtTop : Prop :=
  ∀ (nn : Word) (s : State), s.pc = 0xFFFE#16 → exec (.jp nn) s = .refused (.wordFetchAtTop 0xFFFF#16)

/-- An unimplemented opcode takes its fault from every state: the run stops with the opcode and its address, one Fatal
line, PC by 1, nothing else. -/
def Obligations.UnimplementedCompletes : Prop :=
  ∀ (op : Byte) (s : State),
    exec (.unimplemented op) s = .next
      { s with
        pc := s.pc + 1#16, r := Config.rAfterStep s.draws, draws := s.draws + 1,
        status := .stopped (some (.unimplementedOpcode op s.pc)),
        out := s.out ++ [.log .fatal "Cannot decode instruction"] }

/-! ### Frames -/

/-- What LD B,n and LD A,n leave unchanged: every register but their own destination, every flag (log entry 15), the
run status, the outputs, and every byte of memory. -/
def Obligations.LoadFrame : Prop :=
  (∀ (n : Byte) (s t : State), exec (.ldB n) s = .next t →
    s.sameBackground t ∧ t.status = s.status ∧ t.out = s.out ∧ (∀ x : Slot, x ≠ .b → t.reg x = s.reg x) ∧
    ∀ flag : Flag, t.flag flag = s.flag flag) ∧
  (∀ (n : Byte) (s t : State), exec (.ldA n) s = .next t →
    s.sameBackground t ∧ t.status = s.status ∧ t.out = s.out ∧ (∀ x : Slot, x ≠ .a → t.reg x = s.reg x) ∧
    ∀ flag : Flag, t.flag flag = s.flag flag)

/-- What XOR A leaves unchanged: every register but A and F, the run status, the outputs, and every byte of memory. -/
def Obligations.XorAFrame : Prop :=
  ∀ s t : State, exec .xorA s = .next t →
    s.sameBackground t ∧ t.status = s.status ∧ t.out = s.out ∧ ∀ x : Slot, x ≠ .a → x ≠ .f → t.reg x = s.reg x

/-- What JP nn leaves unchanged: every register and flag (log entry 15), the run status, the outputs, and every byte of
memory. -/
def Obligations.JumpFrame : Prop :=
  ∀ (nn : Word) (s t : State), exec (.jp nn) s = .next t →
    s.sameBackground t ∧ t.status = s.status ∧ t.out = s.out ∧ (∀ x : Slot, t.reg x = s.reg x) ∧
    ∀ flag : Flag, t.flag flag = s.flag flag

/-- What the unimplemented-opcode fault leaves unchanged: every register and flag, the clock, and every byte of
memory. -/
def Obligations.UnimplementedFrame : Prop :=
  ∀ (op : Byte) (s t : State), exec (.unimplemented op) s = .next t →
    s.sameBackground t ∧ t.clock = s.clock ∧ (∀ x : Slot, t.reg x = s.reg x) ∧ ∀ flag : Flag, t.flag flag = s.flag flag

/-! ### The step -/

/-- A running core with no prefix pending whose bytes at PC (the longest instruction's three, modulo 2^16) decode to `i`
runs exactly `i`: the step adds nothing around exec. -/
def Obligations.StepRunsDecodedInstruction : Prop :=
  ∀ (s : State) (i : Instr) (rest : List Byte),
    s.status = .running → s.modifier = 0x00#8 → decode (s.mem.bytesAt 3 s.pc) = .ok (i, rest) →
    i.wf = true ∧ step s = exec i s

/-- LD B,n run from memory: n is the byte after the opcode, modulo 2^16. F kept: log entry 15. -/
def Obligations.StepOfLoadB : Prop :=
  ∀ s : State, s.status = .running → s.modifier = 0x00#8 → s.mem.read s.pc.toNat = 0x06#8 →
    step s = .next
      { s with
        regs := { s.regs with b := s.mem.read (s.pc + 1#16).toNat }, pc := s.pc + 2#16, clock := s.clock + 7,
        r := Config.rAfterStep s.draws, draws := s.draws + 1 }

/-- LD A,n run from memory. 7 T-states: log entry 14; F kept: log entry 15. -/
def Obligations.StepOfLoadA : Prop :=
  ∀ s : State, s.status = .running → s.modifier = 0x00#8 → s.mem.read s.pc.toNat = 0x3E#8 →
    step s = .next
      { s with
        regs := { s.regs with a := s.mem.read (s.pc + 1#16).toNat }, pc := s.pc + 2#16, clock := s.clock + 7,
        r := Config.rAfterStep s.draws, draws := s.draws + 1 }

/-- XOR A run from memory. F = 0x44: log entry 13. -/
def Obligations.StepOfXorA : Prop :=
  ∀ s : State, s.status = .running → s.modifier = 0x00#8 → s.mem.read s.pc.toNat = 0xAF#8 →
    step s = .next
      { s with
        regs := { s.regs with a := 0x00#8, f := 0x44#8 }, pc := s.pc + 1#16, clock := s.clock + 4,
        r := Config.rAfterStep s.draws, draws := s.draws + 1 }

/-- JP nn run from memory: the target is the two bytes after the opcode, low byte first, and a word at 0xFFFF is
refused. F kept: log entry 15. -/
def Obligations.StepOfJump : Prop :=
  ∀ s : State, s.status = .running → s.modifier = 0x00#8 → s.mem.read s.pc.toNat = 0xC3#8 →
    step s =
      if s.pc = 0xFFFE#16 then .refused (.wordFetchAtTop 0xFFFF#16)
      else .next
        { s with
          pc := (s.mem.read (s.pc + 1#16).toNat).setWidth 16 ||| ((s.mem.read (s.pc + 2#16).toNat).setWidth 16 <<< 8), clock := s.clock + 10,
          r := Config.rAfterStep s.draws, draws := s.draws + 1 }

/-- R156: an opcode byte outside `IMPLEMENTED` with no prefix pending stops the run: the Fatal line, `false` to the host,
the status with the opcode and its address, PC one past it, R a draw, and nothing else. -/
def Obligations.StepOfUnimplementedOpcode : Prop :=
  ∀ s : State, s.status = .running → s.modifier = 0x00#8 →
    s.mem.read s.pc.toNat ∉ [0x06#8, 0x3E#8, 0xAF#8, 0xC3#8] →
    ∃ t : State,
      t = { s with
        pc := s.pc + 1#16, r := Config.rAfterStep s.draws, draws := s.draws + 1,
        status := .stopped (some (.unimplementedOpcode (s.mem.read s.pc.toNat) s.pc)),
        out := s.out ++ [.log .fatal "Cannot decode instruction"] } ∧
      step s = .next t ∧ s.perform .processInstruction = (t, .flag false)

/-- R157: with a prefix pending any byte fails: `false` to the host, the status with the byte and its address, PC one
past it, R a draw, Modifier kept, no log line, and nothing else. -/
def Obligations.StepOfPendingPrefix : Prop :=
  ∀ s : State, s.status = .running → s.modifier ≠ 0x00#8 →
    ∃ t : State,
      t = { s with
        pc := s.pc + 1#16, r := Config.rAfterStep s.draws, draws := s.draws + 1,
        status := .stopped (some (.prefixPathUnsupported (s.mem.read s.pc.toNat) s.pc)) } ∧
      step s = .next t ∧ s.perform .processInstruction = (t, .flag false)

/-- R150: the step that decodes first and then executes is the step as the spec's pseudocode writes it, in every state.
Decoding first is the model's DEDUCED choice, which this statement justifies (log entry 20). Both sides hold the same
PRESUMED values: the 7 T-states of LD A,n (log entry 14), the flag positions (log entry 13), F kept by LD and JP (log
entry 15). -/
def Obligations.StepAgreesWithPseudocode : Prop := ∀ s : State, step s = pseudoStep s

/-- R154: ReadWord is two byte reads, low byte first, which advance PC by 2; at PC = 0xFFFF it is refused. -/
def Obligations.ReadWordIsTwoBytesLowFirst : Prop :=
  ∀ s : State,
    s.readWord =
      if s.pc = 0xFFFF#16 then .error (.wordFetchAtTop 0xFFFF#16)
      else .ok
        ((s.mem.read s.pc.toNat).setWidth 16 ||| ((s.mem.read (s.pc + 1#16).toNat).setWidth 16 <<< 8),
         { s with pc := s.pc + 2#16 })

/-- R244: under the default maps a step is refused in one case only, JP nn with its opcode at 0xFFFE. -/
def Obligations.OnlyWordFetchAtTopIsRefused : Prop :=
  ∀ (s : State) (r : Refusal),
    step s = .refused r ↔
      s.status = .running ∧ s.modifier = 0x00#8 ∧ s.pc = 0xFFFE#16 ∧ s.mem.read 0xFFFE = 0xC3#8 ∧
      r = .wordFetchAtTop 0xFFFF#16

/-- R154, R247: the host finds a refused step recorded: PC one past the opcode, R a draw, the status with the reason,
nothing else. -/
def Obligations.RefusedStepIsRecorded : Prop :=
  ∀ s : State, s.status = .running → s.modifier = 0x00#8 → s.pc = 0xFFFE#16 → s.mem.read 0xFFFE = 0xC3#8 →
    s.perform .processInstruction =
      ({ s with
          pc := 0xFFFF#16, r := Config.rAfterStep s.draws, draws := s.draws + 1,
          status := .stopped (some (.refused (.wordFetchAtTop 0xFFFF#16))) },
       .refused (.wordFetchAtTop 0xFFFF#16))

/-- R151: a stopped core has no step, whatever the host asks it stays stopped, and Reset alone starts a run. -/
def Obligations.OnlyResetLeavesStopped : Prop :=
  ∀ (s : State) (why : Option StopOutcome), s.status = .stopped why →
    step s = .fault (.coreStopped why) ∧
    (∀ q : Request, (∀ c, q ≠ .reset c) → (s.perform q).1.status ≠ .running) ∧
    ∀ c, (s.perform (.reset c)).1.status = .running

/-- R247: a step that ends with the run stopped has changed only PC (one past the byte it read), R, the status and the
log: every register, flag, byte of memory and the clock are as before. -/
def Obligations.FaultsArePrecise : Prop :=
  ∀ s t : State, step s = .next t → t.status ≠ .running →
    s.sameBackground t ∧ (∀ x : Slot, t.reg x = s.reg x) ∧ t.clock = s.clock ∧ t.pc = s.pc + 1#16

/-- R159, R300: an Ok step adds its instruction's T-states, any other step adds none. The 7 of LD A,n is PRESUMED (log
entry 14). -/
def Obligations.ClockAdvancesByTheTable : Prop :=
  ∀ s t : State, step s = .next t →
    (t.status = .running →
      ∃ h : Handler, s.mem.read s.pc.toNat = h.opcode ∧
        t.clock = s.clock + (match h with | .ldB => 7 | .ldA => 7 | .xorA => 4 | .jp => 10)) ∧
    (t.status ≠ .running → t.clock = s.clock)

/-! ### Invariants -/

/-- The form of a state (memory canonical, Modifier legal) holds after every step. -/
def Obligations.StepKeepsTheForm : Prop :=
  ∀ s t : State, s.wellFormed → step s = .next t → t.wellFormed

/-- The form of a state holds after every host operation, memory and I/O writes and ROM loads among them; Init takes
its form from what it is given. -/
def Obligations.EveryRequestKeepsTheForm : Prop :=
  ∀ (s : State) (q : Request), s.wellFormed → (∀ draw, q = .init draw → draw.wellFormed) → (s.perform q).1.wellFormed

/-- R31, R35, R37, R38, R40, R42 to R47: what no instruction writes stays at its reset value through every step and
every host operation but Init. -/
def Obligations.InertStateStaysAtReset : Prop :=
  (∀ s t : State, s.inertAtReset → step s = .next t → t.inertAtReset) ∧
  (∀ (s : State) (q : Request), s.inertAtReset → (∀ draw, q ≠ .init draw) → (s.perform q).1.inertAtReset)

/-- R34: XOR A alone writes F. A step that does not run XOR A (a prefix is pending, or the opcode at PC is not 0xAF)
leaves F; one that does writes the flags table's entry for 0x00; so F stays 0x00 or 0x44 where it is one of them. 0x44:
log entry 13; LD and JP keep F: log entry 15. -/
def Obligations.FlagsComeFromXorAOnly : Prop :=
  ∀ s t : State, step s = .next t →
    (s.modifier ≠ 0x00#8 ∨ s.mem.read s.pc.toNat ≠ 0xAF#8 → t.regs.f = s.regs.f) ∧
    (s.modifier = 0x00#8 → s.mem.read s.pc.toNat = 0xAF#8 → t.regs.f = flagsTable 0x00#8) ∧
    (s.flagsFromXor → t.flagsFromXor)

/-- R282: after reset every register of the file (F among them) and R hold 0x00, PC is 0x0000 and the run goes on; the
state meets every invariant above. -/
def Obligations.ResetMeetsTheInvariants : Prop :=
  State.reset.wellFormed ∧ State.reset.inertAtReset ∧ State.reset.flagsFromXor ∧
  State.reset.regs = RegFile.zero ∧ State.reset.r = 0x00#8 ∧ State.reset.pc = 0x0000#16 ∧
  State.reset.status = .running

/-- R113, R120: a run of Ok steps, however long, writes no byte of memory, no I/O and no output. R159, R300: it makes
progress, for either no step was taken or at least 4 T-states passed. That LD A,n makes this progress too rests on its 7 T-states,
which are PRESUMED (D12, G3, log entry 14). -/
def Obligations.RunsWriteNoMemory : Prop :=
  ∀ s t : State, Reaches s t →
    s.sameBackground t ∧ t.mem = s.mem ∧ t.out = s.out ∧ (t = s ∨ s.clock + 4 ≤ t.clock)

/-- R9, R117: no host operation but Init changes the configuration parameter `HIT_MODE`. -/
def Obligations.HitModeIsConstant : Prop :=
  ∀ (s : State) (q : Request), (∀ draw, q ≠ .init draw) → (s.perform q).1.hitMode = s.hitMode

/-! ### What a step may depend on -/

/-- R113, R162: a step reads no byte of memory but those of its own instruction: two memories that agree there give the
same step. -/
def Obligations.StepReadsOnlyItsOwnBytes : Prop :=
  ∀ (s : State) (m : Memory),
    m.bytesAt (instrLength (s.mem.read s.pc.toNat)) s.pc = s.mem.bytesAt (instrLength (s.mem.read s.pc.toNat)) s.pc →
    (∀ t, step s = .next t → step (s.setMem m) = .next (t.setMem m)) ∧
    (∀ r, step s = .refused r → step (s.setMem m) = .refused r) ∧
    (∀ f, step s = .fault f → step (s.setMem m) = .fault f)

/-- R161, R250: the step reads none of IFF1, IFF2, IM, IntPending, NMIPending, IntLock, I and Halted, and writes none:
whatever they hold, the step does the same and leaves them. -/
def Obligations.InterruptStateIsInert : Prop :=
  ∀ (s t : State) (f1 f2 p np lk ha : Bool) (mode : IntMode) (page : Byte), step s = .next t →
    step { s with iff1 := f1, iff2 := f2, im := mode, intPending := p, nmiPending := np, intLock := lk, i := page, halted := ha } =
      .next { t with iff1 := f1, iff2 := f2, im := mode, intPending := p, nmiPending := np, intLock := lk, i := page, halted := ha }

/-! ### Memory -/

/-- Two canonical memories with the same bytes are the same data. -/
def Obligations.CanonicalMemoryIsUnique : Prop :=
  ∀ m m' : Memory, m.wf = true → m'.wf = true → (∀ a, a < 65536 → m.read a = m'.read a) → m = m'

/-- R75: every contents of the 65536 bytes, and so every draw of `INIT_MEMORY`, is a canonical memory. -/
def Obligations.EveryContentsIsAMemory : Prop :=
  ∀ f : Nat → Byte, ∃ m : Memory, m.wf = true ∧ ∀ a, a < 65536 → m.read a = f a

/-- R71: SpaceRead gives the bytes little-endian where its last byte is in the space, and nothing otherwise. -/
def Obligations.SpaceReadIsLittleEndian : Prop :=
  ∀ (m : Memory) (phys : Nat) (w : Width),
    (phys + w.bytes - 1 ≤ 65535 →
      ∃ v, m.spaceRead phys w = some v ∧ ∀ i, i < w.bytes → (v >>> (8 * i)).setWidth 8 = m.read (phys + i)) ∧
    (65535 < phys + w.bytes - 1 → m.spaceRead phys w = none)

/-- R72: SpaceWrite puts the bytes little-endian and touches no other where its last byte is in the space, and changes
no byte at all otherwise. -/
def Obligations.SpaceWriteIsAllOrNothing : Prop :=
  ∀ (m : Memory) (phys : Nat) (w : Width) (v : BitVec (8 * w.bytes)), m.wf = true →
    (phys + w.bytes - 1 ≤ 65535 →
      (∀ i, i < w.bytes → (m.spaceWrite phys w v).read (phys + i) = (v >>> (8 * i)).setWidth 8) ∧
      ∀ a, a < phys ∨ phys + w.bytes ≤ a → (m.spaceWrite phys w v).read a = m.read a) ∧
    (65535 < phys + w.bytes - 1 → m.spaceWrite phys w v = m)

/-- R73: SpaceLoad copies its data in order and touches no other byte, and is refused past the end of the space. -/
def Obligations.SpaceLoadCopiesOrRefuses : Prop :=
  ∀ (m : Memory) (offset : Nat) (data : List Byte), m.wf = true →
    (65535 < offset + data.length - 1 → m.spaceLoad offset data = .error (.loadOutOfRange offset data.length)) ∧
    (offset + data.length - 1 ≤ 65535 →
      ∃ m', m.spaceLoad offset data = .ok m' ∧
        (∀ i (h : i < data.length), m'.read (offset + i) = data[i]) ∧
        ∀ a, a < offset ∨ offset + data.length ≤ a → m'.read a = m.read a)

/-- R86: the router takes the first mapping in insertion order that the address hits. -/
def Obligations.FirstMappingWins : Prop :=
  ∀ (mode : HitMode) (maps : List (Mapping View)) (a : Nat),
    (∀ m, firstHit mode maps a = some m ↔
      ∃ before after, maps = before ++ m :: after ∧ m.isHit mode a = true ∧ ∀ x ∈ before, x.isHit mode a = false) ∧
    (firstHit mode maps a = none ↔ ∀ m ∈ maps, m.isHit mode a = false)

/-- R92, R94: under `CLOSED_AND` a write that starts in RAM and ends in the space reads back at the same width, leaves
every other byte and everything but memory as it was. -/
def Obligations.RamWriteReadsBack : Prop :=
  ∀ (s : State) (a : Word) (w : Width) (x : BitVec (8 * w.bytes)),
    s.mem.wf = true → s.hitMode = .closedAnd → 0x4000 ≤ a.toNat → a.toNat + w.bytes ≤ 65536 →
    ∃ t, s.memWrite a w x = .ok t ∧ t.memRead a w = .ok (some x) ∧ t = s.setMem t.mem ∧
      ∀ b, b < a.toNat ∨ a.toNat + w.bytes ≤ b → t.mem.read b = s.mem.read b

/-- R92 to R95: a read through the router is a read of the space at the same address, whichever view serves it and under
either hit test. Where its last byte is in the space it gives the bytes little-endian, across 0x3FFF and 0x4000 as
elsewhere; past 0xFFFF it gives nothing. -/
def Obligations.RouterReadIsSpaceRead : Prop :=
  ∀ (s : State) (a : Word) (w : Width),
    s.memRead a w = .ok (s.mem.spaceRead a.toNat w) ∧
    (a.toNat + w.bytes ≤ 65536 →
      ∃ v, s.memRead a w = .ok (some v) ∧
        ∀ i, i < w.bytes → (v >>> (8 * i)).setWidth 8 = s.mem.read (a.toNat + i)) ∧
    (65536 < a.toNat + w.bytes → s.memRead a w = .ok none)

/-- R92 to R95: a write is dropped whole where it starts in ROM, where its last byte lies past the end, and everywhere
under `SOURCE_OR`. -/
def Obligations.OtherWritesAreDropped : Prop :=
  ∀ (s : State) (a : Word) (w : Width) (x : BitVec (8 * w.bytes)),
    s.hitMode = .sourceOr ∨ a.toNat < 0x4000 ∨ 65536 < a.toNat + w.bytes → s.memWrite a w x = .ok s

/-! ### I/O -/

/-- R102 to R104: a port write sets BorderReg and drives its colour where it reaches the border device: port 0xFE under
`CLOSED_AND`, 0xFE and 0xFF under `SOURCE_OR`. Other ports are dropped under the first and refused under the second. -/
def Obligations.PortWriteDrivesTheBorder : Prop :=
  ∀ (s : State) (p v : Byte),
    s.ioWrite p v =
      if p = 0xFE#8 ∨ (s.hitMode = .sourceOr ∧ p = 0xFF#8) then
        .ok { s with border := v, out := s.out ++ [.border (Config.borderRgb v)] }
      else if s.hitMode = .closedAnd then .ok s
      else .error (.negativeRelativeAddress p.toNat 0xFE 0xFE)

/-- R101, R103, R105: a port read of the border device gives a fresh free value; a port no mapping hits leaves the
caller's sentinel. -/
def Obligations.PortReadIsAFreshDraw : Prop :=
  ∀ (s : State) (p : Byte),
    s.ioRead p =
      if p = 0xFE#8 ∨ (s.hitMode = .sourceOr ∧ p = 0xFF#8) then
        .ok (some (Config.ioReadFe s.draws), { s with draws := s.draws + 1 })
      else if s.hitMode = .closedAnd then .ok (none, s)
      else .error (.negativeRelativeAddress p.toNat 0xFE 0xFE)

/-! ### Registers and flags -/

/-- R190: the XOR helper writes the exclusive or to its destination and then all of F from the flags table of that
result, in every slot it may be given; with slot 6 as its destination F's own value stands. -/
def Obligations.XorHelperWritesResultAndFlags : Prop :=
  ∀ (s : State) (op1 op2 : Byte) (dest : Slot),
    (s.xorHelper op1 op2 dest).reg .f = flagsTable (op1 ^^^ op2) ∧
    (dest ≠ .f → (s.xorHelper op1 op2 dest).reg dest = op1 ^^^ op2) ∧
    (∀ x, x ≠ dest → x ≠ .f → (s.xorHelper op1 op2 dest).reg x = s.reg x) ∧
    s.sameBackground (s.xorHelper op1 op2 dest)

/-- R50, R191: the flags of a result: S, Y, X its own bits 7, 5, 3, Z for zero, P/V for an even number of ones, H, N and
C clear. The positions are PRESUMED (D18, log entry 13). -/
def Obligations.FlagsTableBits : Prop :=
  ∀ v : Byte,
    flagOf (flagsTable v) .s = v.getLsbD 7 ∧ flagOf (flagsTable v) .y = v.getLsbD 5 ∧
    flagOf (flagsTable v) .x = v.getLsbD 3 ∧ flagOf (flagsTable v) .z = decide (v = 0x00#8) ∧
    flagOf (flagsTable v) .pv = decide (((List.range 8).countP fun k => v.getLsbD k) % 2 = 0) ∧
    flagOf (flagsTable v) .h = false ∧ flagOf (flagsTable v) .n = false ∧ flagOf (flagsTable v) .c = false

/-- R36: a register pair holds the high byte in its first register and the low byte in its second, reads back as
written, and writing it changes no other register. -/
def Obligations.PairsHoldTheHighByteFirst : Prop :=
  ∀ (r : RegFile) (p : RegPair) (v : Word),
    (r.setPair p v).get p.high = hiByte v ∧ (r.setPair p v).get p.low = loByte v ∧ (r.setPair p v).getPair p = v ∧
    ∀ x, x ≠ p.high → x ≠ p.low → (r.setPair p v).get x = r.get x

/-! ### Host operations -/

/-- R281: Reset zeroes the register model, takes the clock's draw, starts a run, and leaves memory and BorderReg. -/
def Obligations.ResetZeroesTheRegisterModel : Prop :=
  ∀ (s : State) (clockDraw : Nat),
    (s.perform (.reset clockDraw)).1 =
      { s with
        regs := ⟨0, 0, 0, 0, 0, 0, 0, 0⟩, alt := ⟨0, 0, 0, 0, 0, 0, 0, 0⟩, ix := 0, iy := 0, sp := 0, pc := 0, i := 0,
        r := 0, iff1 := false, iff2 := false, im := .im0, intPending := false, nmiPending := false, intLock := false,
        modifier := 0, halted := false, clock := clockDraw, status := .running }

/-- R284: after Init the core is stopped with no outcome, so it has no step until the first Reset. -/
def Obligations.NoStepBeforeTheFirstReset : Prop :=
  ∀ s draw : State,
    (s.perform (.init draw)).1.status = .stopped none ∧
    step (s.perform (.init draw)).1 = .fault (.coreStopped none) ∧
    (s.perform (.init draw)).1.mem = draw.mem ∧ (s.perform (.init draw)).1.border = draw.border

/-- R285: LoadROM of more than 16384 bytes answers `false` and changes nothing; otherwise it answers `true`, copies the
bytes to the start of the ROM region, keeps every other byte and everything but memory, and the next fetch sees them. -/
def Obligations.LoadRomCopies : Prop :=
  ∀ (s : State) (bytes : List Byte), s.mem.wf = true →
    (16384 < bytes.length → s.perform (.loadRom bytes) = (s, .flag false)) ∧
    (bytes.length ≤ 16384 →
      ∃ t, s.perform (.loadRom bytes) = (t, .flag true) ∧ t = s.setMem t.mem ∧
        (∀ k (h : k < bytes.length), t.mem.read k = bytes[k] ∧ t.fetchByte (BitVec.ofNat 16 k) = .ok bytes[k]) ∧
        ∀ a, bytes.length ≤ a → t.mem.read a = s.mem.read a)

/-- R163: ProcessInstruction performs one step and answers `true` exactly when it ended Ok and `false` exactly when it
ended Fatal or Failed; a refused step gives no answer of the source's, and its reason is recorded in the status. -/
def Obligations.ProcessInstructionReply : Prop :=
  ∀ s : State,
    ((s.perform .processInstruction).2 = .flag true ↔ ∃ t, s.stepsOk t) ∧
    ((s.perform .processInstruction).2 = .flag false ↔
      ∃ t, step s = .next t ∧
        (t.status = .stopped (some (.unimplementedOpcode (s.mem.read s.pc.toNat) s.pc)) ∨
         t.status = .stopped (some (.prefixPathUnsupported (s.mem.read s.pc.toNat) s.pc)))) ∧
    (∀ t, step s = .next t → (s.perform .processInstruction).1 = t) ∧
    (∀ r, step s = .refused r →
      (s.perform .processInstruction).2 = .refused r ∧
      (s.perform .processInstruction).1.status = .stopped (some (.refused r)))

/-- R289, R293: the clock queries and IsHalted answer what they say in every state and change nothing. -/
def Obligations.QueriesChangeNothing : Prop :=
  ∀ s : State,
    s.perform .getCpuClock = (s, .count s.clock) ∧ s.perform .getCpuClockFreq = (s, .count 3500000) ∧
    s.perform .isHalted = (s, .flag false)

/-! ### The disassembler -/

/-- R223, R139: the disassembler renders the four implemented opcodes with their operand bytes, and consumes as many
bytes as the executor. The texts for 0x06, 0xAF and 0xC3 are the spec's decision D26. -/
def Obligations.DisassemblerAgreesWithExecutor : Prop :=
  ∀ (s : State) (a : Word),
    (s.mem.read a.toNat = 0x3E#8 →
      s.decodeInstruction a =
        .ok ⟨true, ['L', 'D', ' ', 'A', ',', '$'] ++ hexByte (s.mem.read (a + 1#16).toNat), instrLength 0x3E#8, []⟩) ∧
    (s.mem.read a.toNat = 0x06#8 →
      s.decodeInstruction a =
        .ok ⟨true, ['L', 'D', ' ', 'B', ',', '$'] ++ hexByte (s.mem.read (a + 1#16).toNat), instrLength 0x06#8, []⟩) ∧
    (s.mem.read a.toNat = 0xAF#8 →
      s.decodeInstruction a = .ok ⟨true, ['X', 'O', 'R', ' ', 'A'], instrLength 0xAF#8, []⟩) ∧
    (s.mem.read a.toNat = 0xC3#8 →
      s.decodeInstruction a =
        .ok ⟨true, ['J', 'P', ' ', '$'] ++ hexByte (s.mem.read (a + 2#16).toNat) ++ hexByte (s.mem.read (a + 1#16).toNat),
          instrLength 0xC3#8, []⟩)

/-- R216: every prefixed byte string fails to disassemble: an Error line, `???`, `false`, the bytes consumed, and the run
goes on as it was. The lengths are those of the scan of R215. -/
def Obligations.PrefixedBytesFailToDisassemble : Prop :=
  ∀ (s : State) (a : Word) (b0 b1 : Byte), s.mem.read a.toNat = b0 → s.mem.read (a + 1#16).toNat = b1 →
    b0 ∈ [0xDD#8, 0xFD#8, 0xED#8, 0xCB#8] →
    s.perform (.decodeInstruction a) =
      ({ s with out := s.out ++ [.log .error ""] },
        .disassembly false ['?', '?', '?']
          (if b0 = 0xED#8 ∨ b0 = 0xCB#8 then 2 else if b1 = 0xCB#8 then 4 else if b1 = 0xED#8 then 3 else 2))

/-- R224: an unprefixed opcode with no handler disassembles without an error, by the open entry of the `Standard`
table. -/
def Obligations.UnimplementedOpcodesDisassemble : Prop :=
  ∀ (s : State) (a : Word) (op : Byte), s.mem.read a.toNat = op →
    op ∉ [0x06#8, 0x3E#8, 0xAF#8, 0xC3#8, 0xDD#8, 0xFD#8, 0xED#8, 0xCB#8] →
    ∃ d, s.decodeInstruction a = .ok d ∧ s.render (Config.disasmStandardTable op) a (a + 1#16) = .ok d ∧ d.ok = true ∧
      d.log = []

/-- R210, R216: disassembling changes no register, byte of memory, I/O device, clock or run status and drives no border
colour: at most one log line, of category Error, is put out. -/
def Obligations.DisassemblyChangesNoState : Prop :=
  ∀ (s : State) (a : Word), ∃ lines : List Output,
    (lines = [] ∨ ∃ text, lines = [.log .error text]) ∧
    (s.perform (.decodeInstruction a)).1 = { s with out := s.out ++ lines }
end

