-- ==== Sys2Proof/Laws/Decode.lean ====
section
/-! SUPPORT. The dispatch table and the bytes the fetch hands to the decoder. -/
namespace Sys2Proof.Machine

/-! ### The two bytes of a word -/

@[simp] theorem loByte_wordOf (lo hi : Byte) : loByte (wordOf lo hi) = lo := by
  unfold loByte wordOf
  ext i h
  simp

@[simp] theorem hiByte_wordOf (lo hi : Byte) : hiByte (wordOf lo hi) = hi := by
  unfold hiByte wordOf
  ext i h
  simp [show 8 + i < 16 by omega, show i < 16 by omega, BitVec.getLsbD_eq_getElem h]

@[simp] theorem wordOf_bytes (v : Word) : wordOf (loByte v) (hiByte v) = v := by
  unfold loByte hiByte wordOf
  ext i h
  by_cases low : i < 8
  · simp [h, low]
  · simp [h, low, show 8 + (i - 8) = i by omega]
    omega

/-! ### The table -/

/-- The table's entry for the byte of a handler. -/
@[simp] theorem dispatchTable_opcode (h : Handler) : dispatchTable h.opcode = .implemented h := by
  cases h <;> rfl

/-- An implemented entry stands only at its handler's byte. -/
theorem dispatchTable_implemented {op : Byte} {h : Handler} (e : dispatchTable op = .implemented h) : op = h.opcode := by
  unfold dispatchTable at e
  split at e
  · cases e; assumption
  · split at e
    · cases e; assumption
    · split at e
      · cases e; assumption
      · split at e
        · cases e; assumption
        · cases e

/-- The unimplemented entries are the bytes outside `IMPLEMENTED`. -/
theorem dispatchTable_unimplemented {op : Byte} :
    dispatchTable op = .unimplemented ↔ (Instr.unimplemented op).wf = true := by
  simp only [dispatchTable, Instr.wf, Config.implemented, List.contains_cons, List.contains_nil, Bool.not_eq_true']
  by_cases h1 : op = 0x06#8
  · simp [h1]
  by_cases h2 : op = 0x3E#8
  · simp [h2]
  by_cases h3 : op = 0xAF#8
  · simp [h3]
  by_cases h4 : op = 0xC3#8
  · simp [h4]
  simp [h1, h2, h3, h4]

/-- An instruction has at least its opcode byte. -/
theorem instrLength_pos (op : Byte) : 1 ≤ instrLength op := by
  unfold instrLength
  split
  · rename_i h _
    cases h <;> decide
  · exact le_refl 1

/-- The bytes of an instruction are its opcode byte and the bytes after it. -/
theorem bytesAt_instrLength (m : Memory) (a : Word) (op : Byte) :
    m.bytesAt (instrLength op) a = m.read a.toNat :: m.bytesAt (instrLength op - 1) (a + 1#16) := by
  have e : instrLength op = instrLength op - 1 + 1 := (Nat.sub_add_cancel (instrLength_pos op)).symm
  conv_lhs => rw [e]
  rfl

/-- As many bytes as the opcode's length says always decode, to a well-formed instruction and nothing over. -/
theorem decode_bytesAt (m : Memory) (a : Word) :
    ∃ i, decode (m.bytesAt (instrLength (m.read a.toNat)) a) = .ok (i, []) ∧ i.wf = true := by
  cases e : dispatchTable (m.read a.toNat) with
  | unimplemented =>
    refine ⟨.unimplemented (m.read a.toNat), ?_, dispatchTable_unimplemented.1 e⟩
    simp only [instrLength, e, Memory.bytesAt, decode]
  | implemented h =>
    cases h with
    | ldB => exact ⟨.ldB (m.read (a + 1#16).toNat), by simp only [instrLength, e, Handler.length, Memory.bytesAt, decode, decodeOperands], rfl⟩
    | ldA => exact ⟨.ldA (m.read (a + 1#16).toNat), by simp only [instrLength, e, Handler.length, Memory.bytesAt, decode, decodeOperands], rfl⟩
    | xorA => exact ⟨.xorA, by simp only [instrLength, e, Handler.length, Memory.bytesAt, decode, decodeOperands], rfl⟩
    | jp =>
      exact ⟨.jp (wordOf (m.read (a + 1#16).toNat) (m.read (a + 1#16 + 1#16).toNat)),
        by simp only [instrLength, e, Handler.length, Memory.bytesAt, decode, decodeOperands], rfl⟩

end Sys2Proof.Machine
end

