-- ==== Sys2Proof/Laws/Memory.lean ====
section
/-! SUPPORT. Memory: every operation keeps the canonical form, and a byte reads back as written. -/
namespace Sys2Proof.Machine

/-! ### The canonical form, cell by cell -/

theorem Memory.wfFrom_cons {lo k : Nat} {v : Byte} {rest : Memory} :
    Memory.wfFrom lo ((k, v) :: rest) = true ↔
      lo ≤ k ∧ k < Config.memSize ∧ v ≠ Memory.unlisted ∧ Memory.wfFrom (k + 1) rest = true := by
  simp [Memory.wfFrom, and_assoc]

theorem Memory.wfFrom_mono {lo lo' : Nat} {m : Memory} (le : lo' ≤ lo) (h : m.wfFrom lo = true) :
    m.wfFrom lo' = true := by
  cases m with
  | nil => rfl
  | cons cell rest =>
    obtain ⟨k, v⟩ := cell
    rw [Memory.wfFrom_cons] at h ⊢
    exact ⟨le.trans h.1, h.2⟩

/-- Below the first address a canonical list may hold, every byte reads as unlisted. -/
theorem Memory.read_below {lo a : Nat} {m : Memory} (h : m.wfFrom lo = true) (lt : a < lo) :
    m.read a = Memory.unlisted := by
  induction m generalizing lo with
  | nil => rfl
  | cons cell rest ih =>
    obtain ⟨k, v⟩ := cell
    rw [Memory.wfFrom_cons] at h
    rw [Memory.read, if_neg (by omega), ih h.2.2.2 (by omega)]

theorem Memory.wfFrom_write {lo a : Nat} {m : Memory} (v : Byte) (h : m.wfFrom lo = true) (le : lo ≤ a)
    (lt : a < Config.memSize) : (m.write a v).wfFrom lo = true := by
  induction m generalizing lo with
  | nil =>
    unfold Memory.write
    split
    · rfl
    · rename_i hv
      exact Memory.wfFrom_cons.2 ⟨le, lt, hv, rfl⟩
  | cons cell rest ih =>
    obtain ⟨k, x⟩ := cell
    have hc := Memory.wfFrom_cons.1 h
    unfold Memory.write
    split
    · rename_i below
      split
      · exact h
      · rename_i hv
        exact Memory.wfFrom_cons.2 ⟨le, lt, hv, Memory.wfFrom_cons.2 ⟨below, hc.2⟩⟩
    · split
      · rename_i eq
        subst eq
        split
        · exact Memory.wfFrom_mono (by omega) hc.2.2.2
        · rename_i hv
          exact Memory.wfFrom_cons.2 ⟨le, lt, hv, hc.2.2.2⟩
      · exact Memory.wfFrom_cons.2 ⟨hc.1, hc.2.1, hc.2.2.1, ih hc.2.2.2 (by omega)⟩

/-- A write of one byte keeps the canonical form. -/
theorem Memory.wf_write {a : Nat} {m : Memory} (v : Byte) (h : m.wf = true) (lt : a < Config.memSize) :
    (m.write a v).wf = true :=
  Memory.wfFrom_write v h (Nat.zero_le a) lt

/-! ### A byte reads back as written -/

theorem Memory.read_write_same_from {lo a : Nat} {m : Memory} (v : Byte) (h : m.wfFrom lo = true) :
    (m.write a v).read a = v := by
  induction m generalizing lo with
  | nil =>
    unfold Memory.write
    split
    · rename_i hv
      rw [hv]; rfl
    · simp [Memory.read]
  | cons cell rest ih =>
    obtain ⟨k, x⟩ := cell
    have hc := Memory.wfFrom_cons.1 h
    unfold Memory.write
    split
    · rename_i below
      split
      · rename_i hv
        rw [Memory.read, if_neg (by omega), Memory.read_below hc.2.2.2 (by omega), hv]
      · simp [Memory.read]
    · split
      · rename_i eq
        subst eq
        split
        · rename_i hv
          rw [Memory.read_below hc.2.2.2 (by omega), hv]
        · simp [Memory.read]
      · rename_i ne
        rw [Memory.read, if_neg (Ne.symm ne)]
        exact ih hc.2.2.2

/-- A byte written reads back. -/
theorem Memory.read_write_same {a : Nat} {m : Memory} (v : Byte) (h : m.wf = true) : (m.write a v).read a = v :=
  Memory.read_write_same_from v h

/-- A write leaves every other address as it was, whatever the list. -/
theorem Memory.read_write_ne {a b : Nat} (m : Memory) (v : Byte) (ne : b ≠ a) : (m.write a v).read b = m.read b := by
  induction m with
  | nil =>
    unfold Memory.write
    split
    · rfl
    · simp only [Memory.read, if_neg (Ne.symm ne)]
  | cons cell rest ih =>
    obtain ⟨k, x⟩ := cell
    unfold Memory.write
    split
    · split
      · rfl
      · rw [Memory.read, if_neg (Ne.symm ne)]
    · split
      · rename_i eq
        subst eq
        split
        · rw [Memory.read, if_neg (Ne.symm ne)]
        · rw [Memory.read, Memory.read, if_neg (Ne.symm ne), if_neg (Ne.symm ne)]
      · rw [Memory.read, Memory.read, ih]

/-! ### The primitives over several bytes keep the form -/

theorem Memory.wf_writeLe {a n v : Nat} {m : Memory} (h : m.wf = true) (le : a + n ≤ Config.memSize) :
    (m.writeLe a n v).wf = true := by
  induction n generalizing m a v with
  | zero => exact h
  | succ n ih => exact ih (Memory.wf_write _ h (by omega)) (by omega)

/-- `SpaceWrite` keeps the canonical form, in range or not. -/
theorem Memory.wf_spaceWrite {phys : Nat} {m : Memory} (w : Width) (v : BitVec (8 * w.bytes)) (h : m.wf = true) :
    (m.spaceWrite phys w v).wf = true := by
  unfold Memory.spaceWrite
  split
  · rename_i hr
    have last : phys + w.bytes - 1 ≤ 65535 := of_decide_eq_true hr
    have le : phys + w.bytes ≤ 65536 := by omega
    exact Memory.wf_writeLe h le
  · exact h

theorem Memory.wf_copyIn {a : Nat} {data : List Byte} {m : Memory} (h : m.wf = true)
    (le : a + data.length ≤ Config.memSize) : (m.copyIn a data).wf = true := by
  induction data generalizing m a with
  | nil => exact h
  | cons v rest ih =>
    rw [List.length_cons] at le
    exact ih (Memory.wf_write v h (by omega)) (by omega)

/-- `SpaceLoad` keeps the canonical form where it is not refused. -/
theorem Memory.wf_spaceLoad {offset : Nat} {data : List Byte} {m m' : Memory} (h : m.wf = true)
    (ok : m.spaceLoad offset data = .ok m') : m'.wf = true := by
  unfold Memory.spaceLoad at ok
  split at ok
  · rename_i le
    cases ok
    cases data with
    | nil => exact h
    | cons v rest =>
      refine Memory.wf_copyIn h ?_
      rw [List.length_cons] at le ⊢
      unfold Config.maxAddress at le
      unfold Config.memSize
      omega
  · cases ok

/-- Placing instruction bytes keeps the canonical form. -/
theorem Memory.wf_placeBytes {a : Word} {bytes : List Byte} {m : Memory} (h : m.wf = true) :
    (m.placeBytes a bytes).wf = true := by
  induction bytes generalizing m a with
  | nil => exact h
  | cons v rest ih => exact ih (Memory.wf_write v h a.isLt)

/-- The memory after reset is canonical. -/
theorem State.reset_mem_wf : State.reset.mem.wf = true := rfl

end Sys2Proof.Machine
end

