-- ==== Sys2Proof/Laws/Router.lean ====
section
/-! SUPPORT. What the memory router does under the default map, for either hit test: which view an address reaches, what
a read and a write give, and what the instruction fetch reads. -/
namespace Sys2Proof.Machine

/-- Every address reaches a view, at the physical address it names (R87, R89); the view forwards writes only for RAM
under `CLOSED_AND` (R92, R93). -/
theorem route_memoryMap (mode : HitMode) (a : Nat) (lt : a < Config.memSize) :
    ∃ v rel, route mode memoryMap a = .ok (some (v, rel)) ∧ rel + v.offset = a ∧
      v.writable = decide (mode = .closedAnd ∧ Config.ramStart ≤ a) := by
  unfold Config.memSize at lt
  cases mode with
  | closedAnd =>
    by_cases inRom : a ≤ 16383
    · refine ⟨romView, a, ?_, rfl, ?_⟩
      · simp [route, firstHit, memoryMap, Mapping.isHit, View.mapping, View.startAddress, View.endAddress, romView,
          Config.romStart, Config.romSize, inRom]
      · have : ¬ 16384 ≤ a := by omega
        simp [romView, Config.ramStart, this]
    · refine ⟨ramView, a - 16384, ?_, ?_, ?_⟩
      · have h1 : 16384 ≤ a := by omega
        have h2 : a ≤ 65535 := by omega
        simp [route, firstHit, memoryMap, Mapping.isHit, View.mapping, View.startAddress, View.endAddress, romView,
          ramView, Config.romStart, Config.romSize, Config.ramStart, Config.ramSize, inRom, h1, h2]
      · show a - 16384 + 16384 = a
        omega
      · have : 16384 ≤ a := by omega
        simp [ramView, Config.ramStart, this]
  | sourceOr =>
    refine ⟨romView, a, ?_, rfl, ?_⟩
    · simp [route, firstHit, memoryMap, Mapping.isHit, View.mapping, View.startAddress, romView, Config.romStart]
    · simp [romView]

/-- A read through the router is a read of the space at the same address (R92, R93). -/
theorem State.memRead_eq (s : State) (a : Word) (w : Width) : s.memRead a w = .ok (s.mem.spaceRead a.toNat w) := by
  obtain ⟨v, rel, hr, ha, -⟩ := route_memoryMap s.hitMode a.toNat a.isLt
  simp only [State.memRead, hr, View.read, ha]

/-- A write through the router reaches the space only for RAM under `CLOSED_AND` (R92, R93). -/
theorem State.memWrite_eq (s : State) (a : Word) (w : Width) (x : BitVec (8 * w.bytes)) :
    s.memWrite a w x =
      .ok (if s.hitMode = .closedAnd ∧ Config.ramStart ≤ a.toNat then s.setMem (s.mem.spaceWrite a.toNat w x) else s) := by
  obtain ⟨v, rel, hr, ha, hw⟩ := route_memoryMap s.hitMode a.toNat a.isLt
  simp only [State.memWrite, hr, View.write, hw, ha, decide_eq_true_eq]
  split <;> rfl

/-- One byte of the space is always in range. -/
theorem Memory.spaceRead_byte (m : Memory) (a : Word) :
    (m.spaceRead a.toNat .w8).map (BitVec.setWidth 8) = some (m.read a.toNat) := by
  have lt := a.isLt
  have inr : Memory.inRange a.toNat Width.w8.bytes = true :=
    decide_eq_true (show a.toNat + 1 - 1 ≤ 65535 by omega)
  simp only [Memory.spaceRead, inr, if_true, Option.map_some, Option.some.injEq]
  apply BitVec.eq_of_toNat_eq
  simp [Width.bytes, Memory.readLe]

/-- The fetch of one byte reads the space at that address and is never refused (R89, R152). -/
theorem State.fetchByte_eq (s : State) (a : Word) : s.fetchByte a = .ok (s.mem.read a.toNat) := by
  have h := Memory.spaceRead_byte s.mem a
  cases hr : s.mem.spaceRead a.toNat .w8 with
  | none => simp [hr] at h
  | some v =>
    simp only [hr, Option.map_some, Option.some.injEq] at h
    simp only [State.fetchByte, State.memRead_eq, hr, h]

/-- The fetch of several bytes. -/
theorem State.fetchBytes_eq (s : State) (n : Nat) (a : Word) : s.fetchBytes n a = .ok (s.mem.bytesAt n a) := by
  induction n generalizing a with
  | zero => rfl
  | succ n ih => simp only [State.fetchBytes, State.fetchByte_eq, ih, Memory.bytesAt]

end Sys2Proof.Machine
end

