-- ==== Sys2Proof/Laws/State.lean ====
section
/-! SUPPORT. One lemma per field per update of the state, so that no later proof unfolds a record update. -/
namespace Sys2Proof.Machine

/-! ### `State.setReg` -/

@[simp] theorem State.setReg_regs (s : State) (x : Slot) (v : Byte) : (s.setReg x v).regs = s.regs.set x v := rfl
@[simp] theorem State.setReg_alt (s : State) (x : Slot) (v : Byte) : (s.setReg x v).alt = s.alt := rfl
@[simp] theorem State.setReg_ix (s : State) (x : Slot) (v : Byte) : (s.setReg x v).ix = s.ix := rfl
@[simp] theorem State.setReg_iy (s : State) (x : Slot) (v : Byte) : (s.setReg x v).iy = s.iy := rfl
@[simp] theorem State.setReg_sp (s : State) (x : Slot) (v : Byte) : (s.setReg x v).sp = s.sp := rfl
@[simp] theorem State.setReg_pc (s : State) (x : Slot) (v : Byte) : (s.setReg x v).pc = s.pc := rfl
@[simp] theorem State.setReg_i (s : State) (x : Slot) (v : Byte) : (s.setReg x v).i = s.i := rfl
@[simp] theorem State.setReg_r (s : State) (x : Slot) (v : Byte) : (s.setReg x v).r = s.r := rfl
@[simp] theorem State.setReg_iff1 (s : State) (x : Slot) (v : Byte) : (s.setReg x v).iff1 = s.iff1 := rfl
@[simp] theorem State.setReg_iff2 (s : State) (x : Slot) (v : Byte) : (s.setReg x v).iff2 = s.iff2 := rfl
@[simp] theorem State.setReg_im (s : State) (x : Slot) (v : Byte) : (s.setReg x v).im = s.im := rfl
@[simp] theorem State.setReg_intPending (s : State) (x : Slot) (v : Byte) : (s.setReg x v).intPending = s.intPending := rfl
@[simp] theorem State.setReg_nmiPending (s : State) (x : Slot) (v : Byte) : (s.setReg x v).nmiPending = s.nmiPending := rfl
@[simp] theorem State.setReg_intLock (s : State) (x : Slot) (v : Byte) : (s.setReg x v).intLock = s.intLock := rfl
@[simp] theorem State.setReg_modifier (s : State) (x : Slot) (v : Byte) : (s.setReg x v).modifier = s.modifier := rfl
@[simp] theorem State.setReg_halted (s : State) (x : Slot) (v : Byte) : (s.setReg x v).halted = s.halted := rfl
@[simp] theorem State.setReg_clock (s : State) (x : Slot) (v : Byte) : (s.setReg x v).clock = s.clock := rfl
@[simp] theorem State.setReg_mem (s : State) (x : Slot) (v : Byte) : (s.setReg x v).mem = s.mem := rfl
@[simp] theorem State.setReg_border (s : State) (x : Slot) (v : Byte) : (s.setReg x v).border = s.border := rfl
@[simp] theorem State.setReg_status (s : State) (x : Slot) (v : Byte) : (s.setReg x v).status = s.status := rfl
@[simp] theorem State.setReg_hitMode (s : State) (x : Slot) (v : Byte) : (s.setReg x v).hitMode = s.hitMode := rfl
@[simp] theorem State.setReg_draws (s : State) (x : Slot) (v : Byte) : (s.setReg x v).draws = s.draws := rfl
@[simp] theorem State.setReg_out (s : State) (x : Slot) (v : Byte) : (s.setReg x v).out = s.out := rfl

/-! ### `State.setPc` -/

@[simp] theorem State.setPc_regs (s : State) (v : Word) : (s.setPc v).regs = s.regs := rfl
@[simp] theorem State.setPc_alt (s : State) (v : Word) : (s.setPc v).alt = s.alt := rfl
@[simp] theorem State.setPc_ix (s : State) (v : Word) : (s.setPc v).ix = s.ix := rfl
@[simp] theorem State.setPc_iy (s : State) (v : Word) : (s.setPc v).iy = s.iy := rfl
@[simp] theorem State.setPc_sp (s : State) (v : Word) : (s.setPc v).sp = s.sp := rfl
@[simp] theorem State.setPc_pc (s : State) (v : Word) : (s.setPc v).pc = v := rfl
@[simp] theorem State.setPc_i (s : State) (v : Word) : (s.setPc v).i = s.i := rfl
@[simp] theorem State.setPc_r (s : State) (v : Word) : (s.setPc v).r = s.r := rfl
@[simp] theorem State.setPc_iff1 (s : State) (v : Word) : (s.setPc v).iff1 = s.iff1 := rfl
@[simp] theorem State.setPc_iff2 (s : State) (v : Word) : (s.setPc v).iff2 = s.iff2 := rfl
@[simp] theorem State.setPc_im (s : State) (v : Word) : (s.setPc v).im = s.im := rfl
@[simp] theorem State.setPc_intPending (s : State) (v : Word) : (s.setPc v).intPending = s.intPending := rfl
@[simp] theorem State.setPc_nmiPending (s : State) (v : Word) : (s.setPc v).nmiPending = s.nmiPending := rfl
@[simp] theorem State.setPc_intLock (s : State) (v : Word) : (s.setPc v).intLock = s.intLock := rfl
@[simp] theorem State.setPc_modifier (s : State) (v : Word) : (s.setPc v).modifier = s.modifier := rfl
@[simp] theorem State.setPc_halted (s : State) (v : Word) : (s.setPc v).halted = s.halted := rfl
@[simp] theorem State.setPc_clock (s : State) (v : Word) : (s.setPc v).clock = s.clock := rfl
@[simp] theorem State.setPc_mem (s : State) (v : Word) : (s.setPc v).mem = s.mem := rfl
@[simp] theorem State.setPc_border (s : State) (v : Word) : (s.setPc v).border = s.border := rfl
@[simp] theorem State.setPc_status (s : State) (v : Word) : (s.setPc v).status = s.status := rfl
@[simp] theorem State.setPc_hitMode (s : State) (v : Word) : (s.setPc v).hitMode = s.hitMode := rfl
@[simp] theorem State.setPc_draws (s : State) (v : Word) : (s.setPc v).draws = s.draws := rfl
@[simp] theorem State.setPc_out (s : State) (v : Word) : (s.setPc v).out = s.out := rfl

/-! ### `State.tick` -/

@[simp] theorem State.tick_regs (s : State) (n : Nat) : (s.tick n).regs = s.regs := rfl
@[simp] theorem State.tick_alt (s : State) (n : Nat) : (s.tick n).alt = s.alt := rfl
@[simp] theorem State.tick_ix (s : State) (n : Nat) : (s.tick n).ix = s.ix := rfl
@[simp] theorem State.tick_iy (s : State) (n : Nat) : (s.tick n).iy = s.iy := rfl
@[simp] theorem State.tick_sp (s : State) (n : Nat) : (s.tick n).sp = s.sp := rfl
@[simp] theorem State.tick_pc (s : State) (n : Nat) : (s.tick n).pc = s.pc := rfl
@[simp] theorem State.tick_i (s : State) (n : Nat) : (s.tick n).i = s.i := rfl
@[simp] theorem State.tick_r (s : State) (n : Nat) : (s.tick n).r = s.r := rfl
@[simp] theorem State.tick_iff1 (s : State) (n : Nat) : (s.tick n).iff1 = s.iff1 := rfl
@[simp] theorem State.tick_iff2 (s : State) (n : Nat) : (s.tick n).iff2 = s.iff2 := rfl
@[simp] theorem State.tick_im (s : State) (n : Nat) : (s.tick n).im = s.im := rfl
@[simp] theorem State.tick_intPending (s : State) (n : Nat) : (s.tick n).intPending = s.intPending := rfl
@[simp] theorem State.tick_nmiPending (s : State) (n : Nat) : (s.tick n).nmiPending = s.nmiPending := rfl
@[simp] theorem State.tick_intLock (s : State) (n : Nat) : (s.tick n).intLock = s.intLock := rfl
@[simp] theorem State.tick_modifier (s : State) (n : Nat) : (s.tick n).modifier = s.modifier := rfl
@[simp] theorem State.tick_halted (s : State) (n : Nat) : (s.tick n).halted = s.halted := rfl
@[simp] theorem State.tick_clock (s : State) (n : Nat) : (s.tick n).clock = s.clock + n := rfl
@[simp] theorem State.tick_mem (s : State) (n : Nat) : (s.tick n).mem = s.mem := rfl
@[simp] theorem State.tick_border (s : State) (n : Nat) : (s.tick n).border = s.border := rfl
@[simp] theorem State.tick_status (s : State) (n : Nat) : (s.tick n).status = s.status := rfl
@[simp] theorem State.tick_hitMode (s : State) (n : Nat) : (s.tick n).hitMode = s.hitMode := rfl
@[simp] theorem State.tick_draws (s : State) (n : Nat) : (s.tick n).draws = s.draws := rfl
@[simp] theorem State.tick_out (s : State) (n : Nat) : (s.tick n).out = s.out := rfl

/-! ### `State.drawR` -/

@[simp] theorem State.drawR_regs (s : State) : s.drawR.regs = s.regs := rfl
@[simp] theorem State.drawR_alt (s : State) : s.drawR.alt = s.alt := rfl
@[simp] theorem State.drawR_ix (s : State) : s.drawR.ix = s.ix := rfl
@[simp] theorem State.drawR_iy (s : State) : s.drawR.iy = s.iy := rfl
@[simp] theorem State.drawR_sp (s : State) : s.drawR.sp = s.sp := rfl
@[simp] theorem State.drawR_pc (s : State) : s.drawR.pc = s.pc := rfl
@[simp] theorem State.drawR_i (s : State) : s.drawR.i = s.i := rfl
@[simp] theorem State.drawR_r (s : State) : s.drawR.r = Config.rAfterStep s.draws := rfl
@[simp] theorem State.drawR_iff1 (s : State) : s.drawR.iff1 = s.iff1 := rfl
@[simp] theorem State.drawR_iff2 (s : State) : s.drawR.iff2 = s.iff2 := rfl
@[simp] theorem State.drawR_im (s : State) : s.drawR.im = s.im := rfl
@[simp] theorem State.drawR_intPending (s : State) : s.drawR.intPending = s.intPending := rfl
@[simp] theorem State.drawR_nmiPending (s : State) : s.drawR.nmiPending = s.nmiPending := rfl
@[simp] theorem State.drawR_intLock (s : State) : s.drawR.intLock = s.intLock := rfl
@[simp] theorem State.drawR_modifier (s : State) : s.drawR.modifier = s.modifier := rfl
@[simp] theorem State.drawR_halted (s : State) : s.drawR.halted = s.halted := rfl
@[simp] theorem State.drawR_clock (s : State) : s.drawR.clock = s.clock := rfl
@[simp] theorem State.drawR_mem (s : State) : s.drawR.mem = s.mem := rfl
@[simp] theorem State.drawR_border (s : State) : s.drawR.border = s.border := rfl
@[simp] theorem State.drawR_status (s : State) : s.drawR.status = s.status := rfl
@[simp] theorem State.drawR_hitMode (s : State) : s.drawR.hitMode = s.hitMode := rfl
@[simp] theorem State.drawR_draws (s : State) : s.drawR.draws = s.draws + 1 := rfl
@[simp] theorem State.drawR_out (s : State) : s.drawR.out = s.out := rfl

/-! ### `State.setMem` -/

@[simp] theorem State.setMem_regs (s : State) (m : Memory) : (s.setMem m).regs = s.regs := rfl
@[simp] theorem State.setMem_alt (s : State) (m : Memory) : (s.setMem m).alt = s.alt := rfl
@[simp] theorem State.setMem_ix (s : State) (m : Memory) : (s.setMem m).ix = s.ix := rfl
@[simp] theorem State.setMem_iy (s : State) (m : Memory) : (s.setMem m).iy = s.iy := rfl
@[simp] theorem State.setMem_sp (s : State) (m : Memory) : (s.setMem m).sp = s.sp := rfl
@[simp] theorem State.setMem_pc (s : State) (m : Memory) : (s.setMem m).pc = s.pc := rfl
@[simp] theorem State.setMem_i (s : State) (m : Memory) : (s.setMem m).i = s.i := rfl
@[simp] theorem State.setMem_r (s : State) (m : Memory) : (s.setMem m).r = s.r := rfl
@[simp] theorem State.setMem_iff1 (s : State) (m : Memory) : (s.setMem m).iff1 = s.iff1 := rfl
@[simp] theorem State.setMem_iff2 (s : State) (m : Memory) : (s.setMem m).iff2 = s.iff2 := rfl
@[simp] theorem State.setMem_im (s : State) (m : Memory) : (s.setMem m).im = s.im := rfl
@[simp] theorem State.setMem_intPending (s : State) (m : Memory) : (s.setMem m).intPending = s.intPending := rfl
@[simp] theorem State.setMem_nmiPending (s : State) (m : Memory) : (s.setMem m).nmiPending = s.nmiPending := rfl
@[simp] theorem State.setMem_intLock (s : State) (m : Memory) : (s.setMem m).intLock = s.intLock := rfl
@[simp] theorem State.setMem_modifier (s : State) (m : Memory) : (s.setMem m).modifier = s.modifier := rfl
@[simp] theorem State.setMem_halted (s : State) (m : Memory) : (s.setMem m).halted = s.halted := rfl
@[simp] theorem State.setMem_clock (s : State) (m : Memory) : (s.setMem m).clock = s.clock := rfl
@[simp] theorem State.setMem_mem (s : State) (m : Memory) : (s.setMem m).mem = m := rfl
@[simp] theorem State.setMem_border (s : State) (m : Memory) : (s.setMem m).border = s.border := rfl
@[simp] theorem State.setMem_status (s : State) (m : Memory) : (s.setMem m).status = s.status := rfl
@[simp] theorem State.setMem_hitMode (s : State) (m : Memory) : (s.setMem m).hitMode = s.hitMode := rfl
@[simp] theorem State.setMem_draws (s : State) (m : Memory) : (s.setMem m).draws = s.draws := rfl
@[simp] theorem State.setMem_out (s : State) (m : Memory) : (s.setMem m).out = s.out := rfl

/-! ### `State.emit` -/

@[simp] theorem State.emit_regs (s : State) (o : List Output) : (s.emit o).regs = s.regs := rfl
@[simp] theorem State.emit_alt (s : State) (o : List Output) : (s.emit o).alt = s.alt := rfl
@[simp] theorem State.emit_ix (s : State) (o : List Output) : (s.emit o).ix = s.ix := rfl
@[simp] theorem State.emit_iy (s : State) (o : List Output) : (s.emit o).iy = s.iy := rfl
@[simp] theorem State.emit_sp (s : State) (o : List Output) : (s.emit o).sp = s.sp := rfl
@[simp] theorem State.emit_pc (s : State) (o : List Output) : (s.emit o).pc = s.pc := rfl
@[simp] theorem State.emit_i (s : State) (o : List Output) : (s.emit o).i = s.i := rfl
@[simp] theorem State.emit_r (s : State) (o : List Output) : (s.emit o).r = s.r := rfl
@[simp] theorem State.emit_iff1 (s : State) (o : List Output) : (s.emit o).iff1 = s.iff1 := rfl
@[simp] theorem State.emit_iff2 (s : State) (o : List Output) : (s.emit o).iff2 = s.iff2 := rfl
@[simp] theorem State.emit_im (s : State) (o : List Output) : (s.emit o).im = s.im := rfl
@[simp] theorem State.emit_intPending (s : State) (o : List Output) : (s.emit o).intPending = s.intPending := rfl
@[simp] theorem State.emit_nmiPending (s : State) (o : List Output) : (s.emit o).nmiPending = s.nmiPending := rfl
@[simp] theorem State.emit_intLock (s : State) (o : List Output) : (s.emit o).intLock = s.intLock := rfl
@[simp] theorem State.emit_modifier (s : State) (o : List Output) : (s.emit o).modifier = s.modifier := rfl
@[simp] theorem State.emit_halted (s : State) (o : List Output) : (s.emit o).halted = s.halted := rfl
@[simp] theorem State.emit_clock (s : State) (o : List Output) : (s.emit o).clock = s.clock := rfl
@[simp] theorem State.emit_mem (s : State) (o : List Output) : (s.emit o).mem = s.mem := rfl
@[simp] theorem State.emit_border (s : State) (o : List Output) : (s.emit o).border = s.border := rfl
@[simp] theorem State.emit_status (s : State) (o : List Output) : (s.emit o).status = s.status := rfl
@[simp] theorem State.emit_hitMode (s : State) (o : List Output) : (s.emit o).hitMode = s.hitMode := rfl
@[simp] theorem State.emit_draws (s : State) (o : List Output) : (s.emit o).draws = s.draws := rfl
@[simp] theorem State.emit_out (s : State) (o : List Output) : (s.emit o).out = s.out ++ o := rfl

/-! ### `State.fetched` -/

@[simp] theorem State.fetched_regs (s : State) : s.fetched.regs = s.regs := rfl
@[simp] theorem State.fetched_alt (s : State) : s.fetched.alt = s.alt := rfl
@[simp] theorem State.fetched_ix (s : State) : s.fetched.ix = s.ix := rfl
@[simp] theorem State.fetched_iy (s : State) : s.fetched.iy = s.iy := rfl
@[simp] theorem State.fetched_sp (s : State) : s.fetched.sp = s.sp := rfl
@[simp] theorem State.fetched_pc (s : State) : s.fetched.pc = s.pc + 1#16 := rfl
@[simp] theorem State.fetched_i (s : State) : s.fetched.i = s.i := rfl
@[simp] theorem State.fetched_r (s : State) : s.fetched.r = Config.rAfterStep s.draws := rfl
@[simp] theorem State.fetched_iff1 (s : State) : s.fetched.iff1 = s.iff1 := rfl
@[simp] theorem State.fetched_iff2 (s : State) : s.fetched.iff2 = s.iff2 := rfl
@[simp] theorem State.fetched_im (s : State) : s.fetched.im = s.im := rfl
@[simp] theorem State.fetched_intPending (s : State) : s.fetched.intPending = s.intPending := rfl
@[simp] theorem State.fetched_nmiPending (s : State) : s.fetched.nmiPending = s.nmiPending := rfl
@[simp] theorem State.fetched_intLock (s : State) : s.fetched.intLock = s.intLock := rfl
@[simp] theorem State.fetched_modifier (s : State) : s.fetched.modifier = s.modifier := rfl
@[simp] theorem State.fetched_halted (s : State) : s.fetched.halted = s.halted := rfl
@[simp] theorem State.fetched_clock (s : State) : s.fetched.clock = s.clock := rfl
@[simp] theorem State.fetched_mem (s : State) : s.fetched.mem = s.mem := rfl
@[simp] theorem State.fetched_border (s : State) : s.fetched.border = s.border := rfl
@[simp] theorem State.fetched_status (s : State) : s.fetched.status = s.status := rfl
@[simp] theorem State.fetched_hitMode (s : State) : s.fetched.hitMode = s.hitMode := rfl
@[simp] theorem State.fetched_draws (s : State) : s.fetched.draws = s.draws + 1 := rfl
@[simp] theorem State.fetched_out (s : State) : s.fetched.out = s.out := rfl

/-! ### `State.stop` -/

@[simp] theorem State.stop_regs (s : State) (o : StopOutcome) : (s.stop o).regs = s.regs := rfl
@[simp] theorem State.stop_alt (s : State) (o : StopOutcome) : (s.stop o).alt = s.alt := rfl
@[simp] theorem State.stop_ix (s : State) (o : StopOutcome) : (s.stop o).ix = s.ix := rfl
@[simp] theorem State.stop_iy (s : State) (o : StopOutcome) : (s.stop o).iy = s.iy := rfl
@[simp] theorem State.stop_sp (s : State) (o : StopOutcome) : (s.stop o).sp = s.sp := rfl
@[simp] theorem State.stop_pc (s : State) (o : StopOutcome) : (s.stop o).pc = s.pc := rfl
@[simp] theorem State.stop_i (s : State) (o : StopOutcome) : (s.stop o).i = s.i := rfl
@[simp] theorem State.stop_r (s : State) (o : StopOutcome) : (s.stop o).r = s.r := rfl
@[simp] theorem State.stop_iff1 (s : State) (o : StopOutcome) : (s.stop o).iff1 = s.iff1 := rfl
@[simp] theorem State.stop_iff2 (s : State) (o : StopOutcome) : (s.stop o).iff2 = s.iff2 := rfl
@[simp] theorem State.stop_im (s : State) (o : StopOutcome) : (s.stop o).im = s.im := rfl
@[simp] theorem State.stop_intPending (s : State) (o : StopOutcome) : (s.stop o).intPending = s.intPending := rfl
@[simp] theorem State.stop_nmiPending (s : State) (o : StopOutcome) : (s.stop o).nmiPending = s.nmiPending := rfl
@[simp] theorem State.stop_intLock (s : State) (o : StopOutcome) : (s.stop o).intLock = s.intLock := rfl
@[simp] theorem State.stop_modifier (s : State) (o : StopOutcome) : (s.stop o).modifier = s.modifier := rfl
@[simp] theorem State.stop_halted (s : State) (o : StopOutcome) : (s.stop o).halted = s.halted := rfl
@[simp] theorem State.stop_clock (s : State) (o : StopOutcome) : (s.stop o).clock = s.clock := rfl
@[simp] theorem State.stop_mem (s : State) (o : StopOutcome) : (s.stop o).mem = s.mem := rfl
@[simp] theorem State.stop_border (s : State) (o : StopOutcome) : (s.stop o).border = s.border := rfl
@[simp] theorem State.stop_status (s : State) (o : StopOutcome) : (s.stop o).status = .stopped (some o) := rfl
@[simp] theorem State.stop_hitMode (s : State) (o : StopOutcome) : (s.stop o).hitMode = s.hitMode := rfl
@[simp] theorem State.stop_draws (s : State) (o : StopOutcome) : (s.stop o).draws = s.draws := rfl
@[simp] theorem State.stop_out (s : State) (o : StopOutcome) : (s.stop o).out = s.out ++ o.logLines := rfl

/-! ### `State.borderWrite` -/

@[simp] theorem State.borderWrite_regs (s : State) (v : Byte) : (s.borderWrite v).regs = s.regs := rfl
@[simp] theorem State.borderWrite_alt (s : State) (v : Byte) : (s.borderWrite v).alt = s.alt := rfl
@[simp] theorem State.borderWrite_ix (s : State) (v : Byte) : (s.borderWrite v).ix = s.ix := rfl
@[simp] theorem State.borderWrite_iy (s : State) (v : Byte) : (s.borderWrite v).iy = s.iy := rfl
@[simp] theorem State.borderWrite_sp (s : State) (v : Byte) : (s.borderWrite v).sp = s.sp := rfl
@[simp] theorem State.borderWrite_pc (s : State) (v : Byte) : (s.borderWrite v).pc = s.pc := rfl
@[simp] theorem State.borderWrite_i (s : State) (v : Byte) : (s.borderWrite v).i = s.i := rfl
@[simp] theorem State.borderWrite_r (s : State) (v : Byte) : (s.borderWrite v).r = s.r := rfl
@[simp] theorem State.borderWrite_iff1 (s : State) (v : Byte) : (s.borderWrite v).iff1 = s.iff1 := rfl
@[simp] theorem State.borderWrite_iff2 (s : State) (v : Byte) : (s.borderWrite v).iff2 = s.iff2 := rfl
@[simp] theorem State.borderWrite_im (s : State) (v : Byte) : (s.borderWrite v).im = s.im := rfl
@[simp] theorem State.borderWrite_intPending (s : State) (v : Byte) : (s.borderWrite v).intPending = s.intPending := rfl
@[simp] theorem State.borderWrite_nmiPending (s : State) (v : Byte) : (s.borderWrite v).nmiPending = s.nmiPending := rfl
@[simp] theorem State.borderWrite_intLock (s : State) (v : Byte) : (s.borderWrite v).intLock = s.intLock := rfl
@[simp] theorem State.borderWrite_modifier (s : State) (v : Byte) : (s.borderWrite v).modifier = s.modifier := rfl
@[simp] theorem State.borderWrite_halted (s : State) (v : Byte) : (s.borderWrite v).halted = s.halted := rfl
@[simp] theorem State.borderWrite_clock (s : State) (v : Byte) : (s.borderWrite v).clock = s.clock := rfl
@[simp] theorem State.borderWrite_mem (s : State) (v : Byte) : (s.borderWrite v).mem = s.mem := rfl
@[simp] theorem State.borderWrite_border (s : State) (v : Byte) : (s.borderWrite v).border = v := rfl
@[simp] theorem State.borderWrite_status (s : State) (v : Byte) : (s.borderWrite v).status = s.status := rfl
@[simp] theorem State.borderWrite_hitMode (s : State) (v : Byte) : (s.borderWrite v).hitMode = s.hitMode := rfl
@[simp] theorem State.borderWrite_draws (s : State) (v : Byte) : (s.borderWrite v).draws = s.draws := rfl
@[simp] theorem State.borderWrite_out (s : State) (v : Byte) : (s.borderWrite v).out = s.out ++ [.border (Config.borderRgb v)] := rfl

/-! ### `State.hostReset` -/

@[simp] theorem State.hostReset_regs (s : State) (c : Nat) : (s.hostReset c).regs = RegFile.zero := rfl
@[simp] theorem State.hostReset_alt (s : State) (c : Nat) : (s.hostReset c).alt = RegFile.zero := rfl
@[simp] theorem State.hostReset_ix (s : State) (c : Nat) : (s.hostReset c).ix = 0#16 := rfl
@[simp] theorem State.hostReset_iy (s : State) (c : Nat) : (s.hostReset c).iy = 0#16 := rfl
@[simp] theorem State.hostReset_sp (s : State) (c : Nat) : (s.hostReset c).sp = 0#16 := rfl
@[simp] theorem State.hostReset_pc (s : State) (c : Nat) : (s.hostReset c).pc = 0#16 := rfl
@[simp] theorem State.hostReset_i (s : State) (c : Nat) : (s.hostReset c).i = 0#8 := rfl
@[simp] theorem State.hostReset_r (s : State) (c : Nat) : (s.hostReset c).r = 0#8 := rfl
@[simp] theorem State.hostReset_iff1 (s : State) (c : Nat) : (s.hostReset c).iff1 = false := rfl
@[simp] theorem State.hostReset_iff2 (s : State) (c : Nat) : (s.hostReset c).iff2 = false := rfl
@[simp] theorem State.hostReset_im (s : State) (c : Nat) : (s.hostReset c).im = .im0 := rfl
@[simp] theorem State.hostReset_intPending (s : State) (c : Nat) : (s.hostReset c).intPending = false := rfl
@[simp] theorem State.hostReset_nmiPending (s : State) (c : Nat) : (s.hostReset c).nmiPending = false := rfl
@[simp] theorem State.hostReset_intLock (s : State) (c : Nat) : (s.hostReset c).intLock = false := rfl
@[simp] theorem State.hostReset_modifier (s : State) (c : Nat) : (s.hostReset c).modifier = 0#8 := rfl
@[simp] theorem State.hostReset_halted (s : State) (c : Nat) : (s.hostReset c).halted = false := rfl
@[simp] theorem State.hostReset_clock (s : State) (c : Nat) : (s.hostReset c).clock = c := rfl
@[simp] theorem State.hostReset_mem (s : State) (c : Nat) : (s.hostReset c).mem = s.mem := rfl
@[simp] theorem State.hostReset_border (s : State) (c : Nat) : (s.hostReset c).border = s.border := rfl
@[simp] theorem State.hostReset_status (s : State) (c : Nat) : (s.hostReset c).status = .running := rfl
@[simp] theorem State.hostReset_hitMode (s : State) (c : Nat) : (s.hostReset c).hitMode = s.hitMode := rfl
@[simp] theorem State.hostReset_draws (s : State) (c : Nat) : (s.hostReset c).draws = s.draws := rfl
@[simp] theorem State.hostReset_out (s : State) (c : Nat) : (s.hostReset c).out = s.out := rfl

/-! ### Registers -/

@[simp] theorem RegFile.get_set_same (r : RegFile) (x : Slot) (v : Byte) : (r.set x v).get x = v := by
  cases x <;> rfl

theorem RegFile.get_set_ne (r : RegFile) {x y : Slot} (v : Byte) (h : y ≠ x) : (r.set x v).get y = r.get y := by
  cases x <;> cases y <;> first | rfl | exact absurd rfl h

@[simp] theorem State.reg_setReg_same (s : State) (x : Slot) (v : Byte) : (s.setReg x v).reg x = v :=
  RegFile.get_set_same s.regs x v

theorem State.reg_setReg_ne (s : State) {x y : Slot} (v : Byte) (h : y ≠ x) : (s.setReg x v).reg y = s.reg y :=
  RegFile.get_set_ne s.regs v h

end Sys2Proof.Machine
end

