-- ==== Sys2Proof/Laws/Step.lean ====
section
/-! SUPPORT. What an instruction and a step can do, said once: each shared operation of the meanings, then exec, then
step. -/
namespace Sys2Proof.Machine

/-! ### The shared operations of the meanings -/

/-- `ReadByte` on a state whose operand is decoded is an advance of PC. -/
@[simp] theorem State.passByte_eq (s : State) : s.passByte = s.setPc (s.pc + 1#16) := rfl

/-- `ReadWord` away from the top is an advance of PC by 2 (R154). -/
theorem State.passWord_ok (s : State) (h : s.pc ≠ 0xFFFF#16) : s.passWord = .ok (s.setPc (s.pc + 2#16)) := if_neg h

/-- `ReadWord` at the top is refused (R154). -/
theorem State.passWord_top (s : State) (h : s.pc = 0xFFFF#16) : s.passWord = .error (.wordFetchAtTop 0xFFFF#16) := by
  unfold State.passWord
  rw [if_pos h, h]

/-- All a decoded load of an immediate does. -/
theorem State.loadImmediate_eq (s : State) (dest : Slot) (n : Byte) (h : Handler) :
    s.loadImmediate dest n h =
      { s with
        regs := s.regs.set dest n, pc := s.pc + 2#16, r := Config.rAfterStep s.draws, draws := s.draws + 1,
        clock := s.clock + h.tStates } := by
  have two : s.pc + 1#16 + 1#16 = s.pc + 2#16 := by rw [BitVec.add_assoc]; rfl
  rw [← two]
  rfl

/-- All the XOR helper does (R190). -/
theorem State.xorHelper_eq (s : State) (op1 op2 : Byte) (dest : Slot) :
    s.xorHelper op1 op2 dest =
      { s with regs := (s.regs.set dest (op1 ^^^ op2)).set .f (flagsTable (op1 ^^^ op2)) } := rfl

/-- All the unimplemented-opcode fault does (R156). -/
theorem State.unimplementedOpcode_eq (s : State) (op : Byte) :
    s.unimplementedOpcode op =
      { s with
        pc := s.pc + 1#16, r := Config.rAfterStep s.draws, draws := s.draws + 1,
        status := .stopped (some (.unimplementedOpcode op s.pc)),
        out := s.out ++ [.log .fatal "Cannot decode instruction"] } := rfl

/-- All the prefix-pending failure does (R157). -/
theorem State.prefixPath_eq (s : State) (op : Byte) :
    s.prefixPath op =
      { s with
        pc := s.pc + 1#16, r := Config.rAfterStep s.draws, draws := s.draws + 1,
        status := .stopped (some (.prefixPathUnsupported op s.pc)) } := by
  simp only [State.prefixPath, State.stop, StopOutcome.logLines, List.append_nil]
  rfl

/-- The opcode of a JP nn lies at 0xFFFE exactly when its word starts at 0xFFFF. -/
theorem pc_succ_top (a : Word) : a + 1#16 = 0xFFFF#16 ↔ a = 0xFFFE#16 := by
  constructor
  · intro h
    have : a = 0xFFFF#16 - 1#16 := by rw [← h, BitVec.add_sub_cancel]
    rw [this]
    rfl
  · intro h
    rw [h]
    rfl

/-! ### The step -/

/-- The fetch of an instruction is never refused under the default map (R89): it gives the decoded, well-formed
instruction at PC. -/
theorem State.fetchInstr_eq (s : State) :
    ∃ i, s.fetchInstr (s.mem.read s.pc.toNat) = .ok i ∧
      decode (s.mem.bytesAt (instrLength (s.mem.read s.pc.toNat)) s.pc) = .ok (i, []) ∧ i.wf = true := by
  obtain ⟨i, hd, hw⟩ := decode_bytesAt s.mem s.pc
  refine ⟨i, ?_, hd, hw⟩
  rw [bytesAt_instrLength] at hd
  simp only [State.fetchInstr, State.fetchBytes_eq, hd]

/-- Every step is one of three: a stopped core, the prefix path, or the instruction at PC run by exec. -/
theorem step_cases (s : State) :
    (∃ why, s.status = .stopped why ∧ step s = .fault (.coreStopped why)) ∨
    (s.status = .running ∧ s.modifier ≠ 0x00#8 ∧ step s = .next (s.prefixPath (s.mem.read s.pc.toNat))) ∨
    (s.status = .running ∧ s.modifier = 0x00#8 ∧ ∃ i, i.wf = true ∧
      decode (s.mem.bytesAt (instrLength (s.mem.read s.pc.toNat)) s.pc) = .ok (i, []) ∧ step s = exec i s) := by
  cases hs : s.status with
  | stopped why => exact .inl ⟨why, rfl, by simp only [step, hs]⟩
  | running =>
    by_cases hm : s.modifier = 0x00#8
    · obtain ⟨i, hf, hd, hw⟩ := s.fetchInstr_eq
      exact .inr (.inr ⟨rfl, hm, i, hw, hd, by simp only [step, hs, State.fetchByte_eq, hm, if_true, hf]⟩)
    · exact .inr (.inl ⟨rfl, hm, by simp only [step, hs, State.fetchByte_eq, hm, if_false]⟩)

/-- No instruction changes memory, BorderReg or the hit test. -/
theorem exec_next_mem {i : Instr} {s t : State} (h : exec i s = .next t) :
    t.mem = s.mem ∧ t.border = s.border ∧ t.hitMode = s.hitMode := by
  cases i with
  | ldB n => cases h; exact ⟨rfl, rfl, rfl⟩
  | ldA n => cases h; exact ⟨rfl, rfl, rfl⟩
  | xorA => cases h; exact ⟨rfl, rfl, rfl⟩
  | unimplemented op => cases h; exact ⟨rfl, rfl, rfl⟩
  | jp nn =>
    change execJp nn s = _ at h
    unfold execJp at h
    split at h
    · cases h
    · rename_i u hu
      cases h
      unfold State.passWord at hu
      split at hu
      · cases hu
      · cases hu; exact ⟨rfl, rfl, rfl⟩

end Sys2Proof.Machine
end

