-- ==== Sys2Proof/Laws/Host.lean ====
section
/-! SUPPORT. What each host operation can do to the state, said once. -/
namespace Sys2Proof.Machine

/-- `ReadByte` (R153): the byte at PC, and PC advanced. -/
theorem State.readByte_eq (s : State) : s.readByte = .ok (s.mem.read s.pc.toNat, s.setPc (s.pc + 1#16)) := by
  simp only [State.readByte, State.readOpcodeByte, State.fetchByte_eq]

/-- `Next()` (R214): the byte at the cursor, and the cursor advanced. -/
theorem State.nextByte_eq (s : State) (c : Word) : s.nextByte c = .ok (s.mem.read c.toNat, c + 1#16) := by
  simp only [State.nextByte, State.fetchByte_eq]

/-- The text of an operand value is never refused under the default map. -/
theorem State.formatValue_ok (s : State) (t : OperatorType) (c : Word) : ∃ x, s.formatValue t c = .ok x := by
  cases t <;> simp [State.formatValue, State.nextByte_eq]

/-- The text of an operand is never refused under the default map. -/
theorem State.renderOperand_ok (s : State) (separator : Char) (t : OperatorType) (o : OperandName) (c : Word) :
    ∃ x, s.renderOperand separator t o c = .ok x := by
  unfold State.renderOperand
  cases o with
  | none => exact ⟨_, rfl⟩
  | symbol text =>
    cases h : splitPlaceholder text with
    | none => simp [h]
    | some p =>
      obtain ⟨x, hx⟩ := s.formatValue_ok t c
      simp [h, hx]

/-- Rendering a definition succeeds and logs nothing (R217). -/
theorem State.render_ok (s : State) (d : InstrDef) (start c : Word) :
    ∃ x, s.render d start c = .ok x ∧ x.ok = true ∧ x.log = [] := by
  unfold State.render
  obtain ⟨⟨t1, c1⟩, h1⟩ := s.renderOperand_ok ' ' d.operatorType d.operand1 c
  obtain ⟨⟨t2, c2⟩, h2⟩ := s.renderOperand_ok ',' d.operatorType d.operand2 c1
  simp only [h1, h2]
  exact ⟨_, rfl, rfl, rfl⟩

/-- LoadROM is never refused: too many bytes, or a copy from address 0 (R285). -/
theorem State.loadRom_cases (s : State) (bytes : List Byte) :
    (16384 < bytes.length ∧ s.loadRom bytes = .ok (false, s)) ∨
    (bytes.length ≤ 16384 ∧ s.loadRom bytes = .ok (true, s.setMem (s.mem.copyIn 0 bytes))) := by
  unfold State.loadRom Config.romSize
  split
  · exact .inl ⟨‹_›, rfl⟩
  · have le : bytes.length ≤ 16384 := by omega
    refine .inr ⟨le, ?_⟩
    rw [List.take_of_length_le le]
    unfold Memory.spaceLoad Config.romStart Config.maxAddress
    rw [if_pos (by omega)]

/-- A port read is refused, finds no device, or reads the border device. -/
theorem State.ioRead_cases (s : State) (p : Byte) :
    (∃ r, s.ioRead p = .error r) ∨ s.ioRead p = .ok (none, s) ∨
      s.ioRead p = .ok (some s.borderRead.1, s.borderRead.2) := by
  unfold State.ioRead
  split <;> simp

/-- A port write is refused, finds no device, or writes the border device. -/
theorem State.ioWrite_cases (s : State) (p v : Byte) :
    (∃ r, s.ioWrite p v = .error r) ∨ s.ioWrite p v = .ok s ∨ s.ioWrite p v = .ok (s.borderWrite v) := by
  unfold State.ioWrite
  split <;> simp

/-- A refused step leaves the run stopped with that refusal and touches only PC, R, the draws, the status and the
outputs (R247). -/
theorem State.refuseStep_cases (s : State) (r : Refusal) :
    ∃ pc r' d, s.refuseStep r =
      { s with pc := pc, r := r', draws := d, status := .stopped (some (.refused r)), out := s.out ++ [] } := by
  unfold State.refuseStep
  split
  · split <;> exact ⟨_, _, _, rfl⟩
  · exact ⟨_, _, _, rfl⟩
  · exact ⟨_, _, _, rfl⟩

/-- A host operation other than Init, Reset and ProcessInstruction touches only memory (keeping its form), BorderReg,
the status (which it may stop, never start), the draws and the outputs. -/
theorem State.perform_cases (s : State) (q : Request) (noInit : ∀ d, q ≠ .init d) (noReset : ∀ c, q ≠ .reset c)
    (noStep : q ≠ .processInstruction) :
    ∃ (m : Memory) (b : Byte) (st : RunStatus) (d : Nat) (o : List Output),
      (s.perform q).1 = { s with mem := m, border := b, status := st, draws := d, out := o } ∧
      (st = s.status ∨ st ≠ .running) ∧ (s.mem.wf = true → m.wf = true) := by
  have same : ∃ (m : Memory) (b : Byte) (st : RunStatus) (d : Nat) (o : List Output),
      s = { s with mem := m, border := b, status := st, draws := d, out := o } ∧
      (st = s.status ∨ st ≠ .running) ∧ (s.mem.wf = true → m.wf = true) := ⟨_, _, _, _, _, rfl, .inl rfl, id⟩
  have refused : ∀ r, ∃ (m : Memory) (b : Byte) (st : RunStatus) (d : Nat) (o : List Output),
      (s.refuseRequest r).1 = { s with mem := m, border := b, status := st, draws := d, out := o } ∧
      (st = s.status ∨ st ≠ .running) ∧ (s.mem.wf = true → m.wf = true) :=
    fun r => ⟨_, _, _, _, _, rfl, .inr (by simp), id⟩
  cases q with
  | init d => exact absurd rfl (noInit d)
  | reset c => exact absurd rfl (noReset c)
  | processInstruction => exact absurd rfl noStep
  | dumpRegisters => exact same
  | getCpuClock => exact same
  | getCpuClockFreq => exact same
  | isHalted => exact same
  | loadRom bytes =>
    obtain ⟨-, h⟩ | ⟨le, h⟩ := s.loadRom_cases bytes
    · simp only [State.perform, h]
      exact same
    · simp only [State.perform, h]
      exact ⟨_, _, _, _, _, rfl, .inl rfl, fun hw => Memory.wf_copyIn hw (by unfold Config.memSize; omega)⟩
  | decodeInstruction a =>
    simp only [State.perform]
    split
    · exact refused _
    · exact ⟨_, _, _, _, _, rfl, .inl rfl, id⟩
  | memRead a w =>
    simp only [State.perform, State.memRead_eq]
    exact same
  | memWrite a w v =>
    simp only [State.perform, State.memWrite_eq]
    split
    · exact ⟨_, _, _, _, _, rfl, .inl rfl, fun h => Memory.wf_spaceWrite _ _ h⟩
    · exact same
  | ioRead p =>
    obtain ⟨r, h⟩ | h | h := s.ioRead_cases p
    · simp only [State.perform, h]
      exact refused _
    · simp only [State.perform, h]
      exact same
    · simp only [State.perform, h]
      exact ⟨_, _, _, _, _, rfl, .inl rfl, id⟩
  | ioWrite p v =>
    obtain ⟨r, h⟩ | h | h := s.ioWrite_cases p v
    · simp only [State.perform, h]
      exact refused _
    · simp only [State.perform, h]
      exact same
    · simp only [State.perform, h]
      exact ⟨_, _, _, _, _, rfl, .inl rfl, id⟩

end Sys2Proof.Machine
end

