-- ==== Sys2Proof/Laws/PerInstr.lean ====
section
/-! SUPPORT. Statements made once for each constructor of `Instr`. Family `EncodedLength`: an instruction's encoding is
as long as the executor's length for its opcode byte (R136), between 1 and 3 bytes (R130). -/
namespace Sys2Proof

/-- The encoding of `i` begins with an opcode byte whose length is the encoding's. -/
def Laws.EncodedLength.Statement (i : Instr) : Prop :=
  i.wf = true → ∃ op rest, encode i = op :: rest ∧ (encode i).length = instrLength op ∧ (encode i).length ≤ 3

theorem Laws.EncodedLength.ldB (n : Byte) : Laws.EncodedLength.Statement (.ldB n) :=
  fun _ => ⟨0x06#8, [n], rfl, rfl, (by decide : 2 ≤ 3)⟩

theorem Laws.EncodedLength.ldA (n : Byte) : Laws.EncodedLength.Statement (.ldA n) :=
  fun _ => ⟨0x3E#8, [n], rfl, rfl, (by decide : 2 ≤ 3)⟩

theorem Laws.EncodedLength.xorA : Laws.EncodedLength.Statement .xorA :=
  fun _ => ⟨0xAF#8, [], rfl, rfl, by decide⟩

theorem Laws.EncodedLength.jp (nn : Word) : Laws.EncodedLength.Statement (.jp nn) :=
  fun _ => ⟨0xC3#8, [loByte nn, hiByte nn], rfl, rfl, le_refl 3⟩

theorem Laws.EncodedLength.unimplemented (op : Byte) : Laws.EncodedLength.Statement (.unimplemented op) := by
  intro h
  refine ⟨op, [], rfl, ?_, by simp [encode]⟩
  simp only [Instr.wf, Config.implemented, List.contains_cons, List.contains_nil, Bool.not_eq_true', Bool.or_eq_false_iff,
    beq_eq_false_iff_ne] at h
  obtain ⟨h1, h2, h3, h4, -⟩ := h
  simp [instrLength, dispatchTable, h1, h2, h3, h4, encode]

end Sys2Proof
end

