-- ==== Sys2Proof/Tests/Slice0.lean ====
section
/-! SUPPORT. Tests: expected results come from spec/95_test_vectors.md (the vector is named) or are computed by hand from
the rule named. Then a witness for the hypotheses of each statement. -/
namespace Sys2Proof.Machine.Tests

/-! ### Helpers -/

/-- A reset core with bytes stored from `a` on and PC at `a`. -/
def coreAt (a : Word) (bytes : List Byte) : State := (State.reset.setMem (Memory.placeBytes [] a bytes)).setPc a

/-- A field of a next state. -/
def nextOf {α : Type} (o : Host.Outcome State Fault Refusal) (f : State → α) : Option α :=
  match o with
  | .next t => some (f t)
  | .fault _ => none
  | .refused _ => none

/-- A field of a result that is not refused. -/
def okOf {α β : Type} (o : Except Refusal α) (f : α → β) : Option β :=
  match o with
  | .ok t => some (f t)
  | .error _ => none

/-- The refusal of a step, if it was refused. -/
def refusalOf (o : Host.Outcome State Fault Refusal) : Option Refusal :=
  match o with
  | .next _ => none
  | .fault _ => none
  | .refused r => some r

/-! ### Well-formedness: an implemented byte is no unimplemented instruction (R3) -/

theorem test_wf_refuses_06 : (Instr.unimplemented 0x06#8).wf = false := by decide
theorem test_wf_refuses_3E : (Instr.unimplemented 0x3E#8).wf = false := by decide
theorem test_wf_refuses_AF : (Instr.unimplemented 0xAF#8).wf = false := by decide
theorem test_wf_refuses_C3 : (Instr.unimplemented 0xC3#8).wf = false := by decide
theorem test_wf_accepts_76 : (Instr.unimplemented 0x76#8).wf = true := by decide

/-! ### Decoding: words written out from R131, R132 -/

theorem test_decode_ld_b : decode [0b00000110#8, 0b11111111#8] = .ok (.ldB 0xFF#8, []) := by decide
theorem test_decode_ld_a : decode [0b00111110#8, 0b01111111#8] = .ok (.ldA 0x7F#8, []) := by decide
theorem test_decode_xor_a : decode [0b10101111#8, 0b00000001#8] = .ok (.xorA, [0x01#8]) := by decide
theorem test_decode_jp : decode [0b11000011#8, 0b00110100#8, 0b00010010#8] = .ok (.jp 0x1234#16, []) := by decide
theorem test_decode_unimplemented : decode [0b00000001#8] = .ok (.unimplemented 0x01#8, []) := by decide
theorem test_decode_prefix_byte : decode [0b11011101#8, 0x21#8] = .ok (.unimplemented 0xDD#8, [0x21#8]) := by decide
theorem test_decode_rejects_nothing : decode [] = .error .noOpcode := by decide
theorem test_decode_rejects_short_jp : decode [0xC3#8, 0x00#8] = .error (.missingOperand 0xC3#8) := by decide
/-- The table's word for JP nn, 24 bits, first byte in bits 7..0: C3 34 12. -/
theorem test_table_word_jp : decodeTableWord 24 0x1234C3 = some (.jp 0x1234#16) := by decide
/-- Bits above the row's width are 0. -/
theorem test_table_word_ld_a : decodeTableWord 8 0xFF3E = some (.ldA 0x00#8) := by decide

/-! ### The four instructions and the fault, from memory -/

/-- L1-A, first step: B = 0x05. -/
theorem test_ld_b_value : nextOf (step (coreAt 0x0000#16 [0x06#8, 0x05#8])) (fun t => (t.regs.b, t.pc, t.clock)) = some (0x05#8, 0x0002#16, 7) := by decide
/-- LD4: the opcode at 0xFFFF takes n from 0x0000. -/
theorem test_ld_b_wraps : nextOf (step (coreAt 0xFFFF#16 [0x06#8, 0x42#8])) (fun t => (t.regs.b, t.pc)) = some (0x42#8, 0x0001#16) := by decide
/-- LD3: loading zero sets no flag. -/
theorem test_ld_a_no_flag : nextOf (step (coreAt 0x0000#16 [0x3E#8, 0x00#8])) (fun t => (t.regs.a, t.regs.f, t.clock)) = some (0x00#8, 0x00#8, 7) := by decide
/-- LD5: n across the ROM and RAM boundary's edge. -/
theorem test_ld_a_at_rom_end : nextOf (step (coreAt 0x3FFE#16 [0x3E#8, 0x80#8])) (fun t => (t.regs.a, t.regs.b, t.pc)) = some (0x80#8, 0x00#8, 0x4000#16) := by decide
/-- XO1: A = 0x5A, F = 0xFF. -/
theorem test_xor_a_clears : nextOf (step (((coreAt 0x0000#16 [0xAF#8]).setReg .a 0x5A#8).setReg .f 0xFF#8)) (fun t => (t.regs.a, t.regs.f, t.clock)) = some (0x00#8, 0x44#8, 4) := by decide
/-- X7: from 0xFFFF PC wraps. -/
theorem test_xor_a_wraps : nextOf (step (coreAt 0xFFFF#16 [0xAF#8])) (fun t => t.pc) = some 0x0000#16 := by decide
/-- J1: low byte first. -/
theorem test_jp_target : nextOf (step (coreAt 0x0000#16 [0xC3#8, 0x34#8, 0x12#8])) (fun t => (t.pc, t.clock, t.status)) = some (0x1234#16, 10, .running) := by decide
/-- J4: the opcode at 0xFFFF. -/
theorem test_jp_wraps : nextOf (step (coreAt 0xFFFF#16 [0xC3#8, 0x00#8, 0x20#8])) (fun t => t.pc) = some 0x2000#16 := by decide
/-- X1, L1-P6. -/
theorem test_unimplemented_01 : nextOf (step (coreAt 0x0000#16 [0x01#8])) (fun t => (t.pc, t.clock, t.status, t.out)) = some (0x0001#16, 0, .stopped (some (.unimplementedOpcode 0x01#8 0x0000#16)), [.log .fatal "Cannot decode instruction"]) := by decide
/-- X3: a prefix byte does not set Modifier. -/
theorem test_unimplemented_dd : nextOf (step (coreAt 0x0000#16 [0xDD#8])) (fun t => (t.pc, t.modifier)) = some (0x0001#16, 0x00#8) := by decide

/-- J3: refused, and the host operation records PC = 0xFFFF and no T-state. -/
theorem test_jp_at_top : refusalOf (step (coreAt 0xFFFE#16 [0xC3#8])) = some (.wordFetchAtTop 0xFFFF#16) := by decide
theorem test_jp_at_top_recorded :
    (((coreAt 0xFFFE#16 [0xC3#8]).perform .processInstruction).1.pc,
     ((coreAt 0xFFFE#16 [0xC3#8]).perform .processInstruction).1.clock,
     ((coreAt 0xFFFE#16 [0xC3#8]).perform .processInstruction).1.status) =
    (0xFFFF#16, 0, .stopped (some (.refused (.wordFetchAtTop 0xFFFF#16)))) := by decide

/-- X4: a pending prefix fails before any lookup, with no log line. -/
def pendingPrefix : State := { coreAt 0x0010#16 [0xAF#8] with modifier := 0xDD#8 }
theorem test_prefix_pending : nextOf (step pendingPrefix) (fun t => (t.pc, t.modifier, t.clock, t.status, t.out)) = some (0x0011#16, 0xDD#8, 0, .stopped (some (.prefixPathUnsupported 0xAF#8 0x0010#16)), []) := by decide

/-! ### Flags table (L2.1) -/

theorem test_flags_table : [0x00#8, 0x03#8, 0x10#8, 0x28#8, 0x7F#8, 0x81#8, 0xFF#8].map flagsTable = [0x44#8, 0x04#8, 0x00#8, 0x2C#8, 0x28#8, 0x84#8, 0xAC#8] := by decide

/-- The slot numbers of R31. -/
theorem test_slot_index : [Slot.b, .c, .d, .e, .h, .l, .f, .a].map Slot.index = [0, 1, 2, 3, 4, 5, 6, 7] := by decide
/-- The codes of R240. -/
theorem test_outcome_codes : [StopOutcome.unimplementedOpcode 0x01#8 0#16, .prefixPathUnsupported 0xAF#8 0#16, .refused (.unmappedFetch 0#16), .refused (.wordFetchAtTop 0xFFFF#16), .refused (.negativeRelativeAddress 0 0xFE 0xFE), .refused (.loadOutOfRange 65536 1)].map StopOutcome.code = [1, 2, 3, 4, 5, 6] := by decide

/-! ### Memory and I/O (L2.2, L2.3) -/

/-- M3. -/
theorem test_write16 : okOf (State.reset.memWrite 0x8000#16 .w16 0x1234#16) (fun t => (t.mem.read 0x8000, t.mem.read 0x8001)) = some (0x34#8, 0x12#8) := by decide
/-- M6: a write that starts in ROM is dropped whole. -/
theorem test_write_at_rom_end : okOf (State.reset.memWrite 0x3FFF#16 .w16 0xBEEF#16) (fun t => t.mem) = some [] := by decide
/-- M7: a read that starts in ROM reaches RAM. -/
theorem test_read_at_rom_end : (coreAt 0x3FFF#16 [0xEF#8, 0xBE#8]).memRead 0x3FFF#16 .w16 = .ok (some 0xBEEF#16) := by decide
/-- M9: the last byte would lie at 0x10000. -/
theorem test_write64_past_end : okOf (State.reset.memWrite 0xFFF9#16 .w64 0x0102030405060708#64) (fun t => t.mem) = some [] := by decide
/-- M4. -/
theorem test_read_past_end : State.reset.memRead 0xFFFF#16 .w16 = .ok none := by decide
/-- M10: under SOURCE_OR the RAM write is dropped. -/
theorem test_source_or_drops : okOf ({ State.reset with hitMode := .sourceOr }.memWrite 0x4000#16 .w8 0xAB#8) (fun t => t.mem) = some [] := by decide
/-- IO1. -/
theorem test_border_write : okOf (State.reset.ioWrite 0xFE#8 0x07#8) (fun t => (t.border, t.out)) = some (0x07#8, [.border (Config.borderRgb 0x07#8)]) := by rfl
/-- IO2. -/
theorem test_port_unmapped : okOf (State.reset.ioWrite 0xFD#8 0x07#8) (fun t => (t.border, t.out)) = some (0x00#8, []) := by decide
/-- IO5. -/
theorem test_source_or_port : okOf ({ State.reset with hitMode := .sourceOr }.ioWrite 0x00#8 0x02#8) (fun t => t.border) = none := by decide
/-- Writing the unlisted byte removes the cell (log entry 1). -/
theorem test_canonical : ((Memory.write [] 5 0x01#8).write 5 0x00#8) = [] := by decide

/-! ### Host operations and disassembler (L2.8, L2.9) -/

/-- M13. -/
theorem test_load_rom : okOf (State.reset.loadRom [0xAA#8, 0xBB#8]) (fun t => (t.1, t.2.mem)) = some (true, [(0, 0xAA#8), (1, 0xBB#8)]) := by decide
/-- RS1, in part: Reset leaves memory and starts a run. -/
theorem test_reset : ({ coreAt 0x1234#16 [0x77#8] with sp := 0x5555#16, modifier := 0xDD#8, status := .stopped none }.hostReset 9) = { State.reset with mem := [(0x1234, 0x77#8)], clock := 9 } := by decide
/-- DA1. -/
theorem test_disasm_ld_a : (coreAt 0x0000#16 [0x3E#8, 0x7F#8]).decodeInstruction 0x0000#16 = .ok ⟨true, ['L', 'D', ' ', 'A', ',', '$', '7', 'F'], 2, []⟩ := by decide
/-- DA4. -/
theorem test_disasm_jp : (coreAt 0x0000#16 [0xC3#8, 0x34#8, 0x12#8]).decodeInstruction 0x0000#16 = .ok ⟨true, ['J', 'P', ' ', '$', '1', '2', '3', '4'], 3, []⟩ := by decide
/-- DA8: the four-byte form. -/
theorem test_disasm_ddcb : (coreAt 0x0000#16 [0xDD#8, 0xCB#8, 0x05#8, 0x46#8]).decodeInstruction 0x0000#16 = .ok ⟨false, ['?', '?', '?'], 4, [.log .error ""]⟩ := by decide
/-- DA13: uppercase digits. -/
theorem test_hex_uppercase : hexByte 0x0A#8 = ['0', 'A'] := by decide

/-! ### Placing an instruction where it is fetched -/

theorem test_with_fetch_word : nextOf (step (State.reset.withFetchWord 16 0x053E)) (fun t => t.regs.a) = some 0x05#8 := by decide
theorem test_with_fetch_word_wf : (State.reset.withFetchWord 24 0xFFFFC3).mem.wf = true := by decide

/-! ### Witnesses: a state and operands that meet the hypotheses of each statement -/

theorem witness_DecodeOfEncode : (Instr.unimplemented 0xFF#8).wf = true ∧ (Instr.jp 0xFFFF#16).wf = true := by decide
theorem witness_EncodeOfDecode : decode [0xC3#8, 0xFF#8, 0xFF#8, 0x01#8] = .ok (.jp 0xFFFF#16, [0x01#8]) := by decide
theorem witness_JumpCompletes : (coreAt 0xFFFD#16 []).pc ≠ 0xFFFE#16 ∧ (coreAt 0xFFFF#16 []).pc ≠ 0xFFFE#16 := by decide
theorem witness_JumpRefusedAtTop : (coreAt 0xFFFE#16 []).pc = 0xFFFE#16 := by decide
theorem witness_LoadFrame : (∃ t, exec (.ldB 0xFF#8) State.reset = .next t) ∧ Slot.f ≠ .b ∧ (∃ t, exec (.ldA 0xFF#8) State.reset = .next t) ∧ Slot.f ≠ .a := ⟨⟨_, rfl⟩, by decide, ⟨_, rfl⟩, by decide⟩
theorem witness_XorAFrame : (∃ t, exec .xorA State.reset = .next t) ∧ Slot.b ≠ .a ∧ Slot.b ≠ .f := ⟨⟨_, rfl⟩, by decide, by decide⟩
theorem witness_JumpFrame : ∃ t, exec (.jp 0xFFFF#16) State.reset = .next t := ⟨_, rfl⟩
theorem witness_UnimplementedFrame : ∃ t, exec (.unimplemented 0x76#8) State.reset = .next t := ⟨_, rfl⟩

/-- A running core, no prefix pending, with the opcode at the top of memory. -/
def wrapped : State := coreAt 0xFFFF#16 [0xC3#8, 0x00#8, 0x20#8]
theorem witness_StepRunsDecodedInstruction : wrapped.status = .running ∧ wrapped.modifier = 0x00#8 ∧ decode (wrapped.mem.bytesAt 3 wrapped.pc) = .ok (.jp 0x2000#16, []) := by decide
def loadingB : State := coreAt 0xFFFF#16 [0x06#8, 0x42#8]
theorem witness_StepOfLoadB : loadingB.status = .running ∧ loadingB.modifier = 0x00#8 ∧ loadingB.mem.read loadingB.pc.toNat = 0x06#8 := by decide
def loadingA : State := coreAt 0x3FFF#16 [0x3E#8, 0x80#8]
theorem witness_StepOfLoadA : loadingA.status = .running ∧ loadingA.modifier = 0x00#8 ∧ loadingA.mem.read loadingA.pc.toNat = 0x3E#8 := by decide
def clearing : State := coreAt 0xFFFF#16 [0xAF#8]
theorem witness_StepOfXorA : clearing.status = .running ∧ clearing.modifier = 0x00#8 ∧ clearing.mem.read clearing.pc.toNat = 0xAF#8 := by decide
theorem witness_StepOfJump : wrapped.status = .running ∧ wrapped.modifier = 0x00#8 ∧ wrapped.mem.read wrapped.pc.toNat = 0xC3#8 ∧ wrapped.pc ≠ 0xFFFE#16 := by decide
/-- JP nn with its word at 0xFFFF. -/
def jumpAtTop : State := coreAt 0xFFFE#16 [0xC3#8]
theorem witness_StepOfJump_top : jumpAtTop.status = .running ∧ jumpAtTop.modifier = 0x00#8 ∧ jumpAtTop.mem.read jumpAtTop.pc.toNat = 0xC3#8 ∧ jumpAtTop.pc = 0xFFFE#16 := by decide
theorem witness_OnlyWordFetchAtTopIsRefused : jumpAtTop.status = .running ∧ jumpAtTop.modifier = 0x00#8 ∧ jumpAtTop.pc = 0xFFFE#16 ∧ jumpAtTop.mem.read 0xFFFE = 0xC3#8 ∧ refusalOf (step jumpAtTop) = some (.wordFetchAtTop 0xFFFF#16) := by decide
theorem witness_RefusedStepIsRecorded : jumpAtTop.status = .running ∧ jumpAtTop.modifier = 0x00#8 ∧ jumpAtTop.pc = 0xFFFE#16 ∧ jumpAtTop.mem.read 0xFFFE = 0xC3#8 := by decide
def halting : State := coreAt 0xFFFF#16 [0x76#8]
theorem witness_StepOfUnimplementedOpcode : halting.status = .running ∧ halting.modifier = 0x00#8 ∧ halting.mem.read halting.pc.toNat ∉ [0x06#8, 0x3E#8, 0xAF#8, 0xC3#8] := by decide
theorem witness_StepOfPendingPrefix : pendingPrefix.status = .running ∧ pendingPrefix.modifier ≠ 0x00#8 := by decide
theorem witness_ReadWordIsTwoBytesLowFirst : (coreAt 0xFFFF#16 []).pc = 0xFFFF#16 ∧ (coreAt 0xFFFE#16 []).pc ≠ 0xFFFF#16 := by decide
/-- A core that a fault has stopped. -/
def stopped : State := halting.unimplementedOpcode 0x76#8
theorem witness_OnlyResetLeavesStopped : stopped.status = .stopped (some (.unimplementedOpcode 0x76#8 0xFFFF#16)) ∧ ∀ c, Request.loadRom [0xAF#8] ≠ .reset c := ⟨by decide, fun _ h => by cases h⟩
theorem witness_FaultsArePrecise : ∃ t, step halting = .next t ∧ t.status ≠ .running := ⟨_, rfl, by decide⟩
theorem witness_FaultsArePrecise_prefix : ∃ t, step pendingPrefix = .next t ∧ t.status ≠ .running := ⟨_, rfl, by decide⟩
theorem witness_ClockAdvancesByTheTable : ∃ t, step clearing = .next t ∧ t.status = .running := ⟨_, rfl, rfl⟩
theorem witness_ClockAdvancesByTheTable_stop : ∃ t, step halting = .next t ∧ t.status ≠ .running := ⟨_, rfl, by decide⟩

theorem witness_StepKeepsTheForm : loadingB.wellFormed ∧ ∃ t, step loadingB = .next t := ⟨⟨by decide, .inl rfl⟩, _, rfl⟩
theorem witness_StepKeepsTheForm_prefix : pendingPrefix.wellFormed ∧ ∃ t, step pendingPrefix = .next t := ⟨⟨by decide, .inr (.inl rfl)⟩, _, rfl⟩
theorem witness_EveryRequestKeepsTheForm : loadingB.wellFormed ∧ ∀ draw, Request.memWrite 0xFFFF#16 .w8 0x55 = .init draw → draw.wellFormed := ⟨⟨by decide, .inl rfl⟩, fun _ h => by cases h⟩
theorem witness_EveryRequestKeepsTheForm_init : loadingB.wellFormed ∧ ∀ draw, Request.init State.reset = .init draw → draw.wellFormed := ⟨⟨by decide, .inl rfl⟩, fun _ h => by cases h; exact ⟨rfl, .inl rfl⟩⟩
theorem witness_InertStateStaysAtReset : loadingB.inertAtReset ∧ ∃ t, step loadingB = .next t := ⟨by simp only [State.inertAtReset]; decide, _, rfl⟩
theorem witness_InertStateStaysAtReset_request : loadingB.inertAtReset ∧ ∀ draw, Request.processInstruction ≠ .init draw := ⟨by simp only [State.inertAtReset]; decide, fun _ h => by cases h⟩
theorem witness_FlagsComeFromXorAOnly : clearing.flagsFromXor ∧ clearing.modifier = 0x00#8 ∧ clearing.mem.read clearing.pc.toNat = 0xAF#8 ∧ ∃ t, step clearing = .next t := ⟨.inl rfl, by decide, by decide, _, rfl⟩
theorem witness_FlagsComeFromXorAOnly_other : loadingB.mem.read loadingB.pc.toNat ≠ 0xAF#8 ∧ ∃ t, step loadingB = .next t := ⟨by decide, _, rfl⟩
/-- A prefix pending over the byte of XOR A. -/
theorem witness_FlagsComeFromXorAOnly_prefix : pendingPrefix.modifier ≠ 0x00#8 ∧ pendingPrefix.mem.read pendingPrefix.pc.toNat = 0xAF#8 ∧ ∃ t, step pendingPrefix = .next t := ⟨by decide, by decide, _, rfl⟩
theorem witness_RunsWriteNoMemory : ∃ t, Reaches clearing t ∧ t ≠ clearing :=
  ⟨_, .onward ⟨rfl, rfl⟩ (.here _), fun h => absurd (congrArg State.pc h) (by decide)⟩
theorem witness_HitModeIsConstant : ∀ draw, Request.reset 0 ≠ .init draw := fun _ h => by cases h
/-- A memory that agrees with that of `s` on the instruction at PC and differs elsewhere. -/
def agreesOnInstruction (s : State) (m : Memory) : Prop :=
  m.bytesAt (instrLength (s.mem.read s.pc.toNat)) s.pc = s.mem.bytesAt (instrLength (s.mem.read s.pc.toNat)) s.pc ∧ m ≠ s.mem
theorem witness_StepReadsOnlyItsOwnBytes_next : agreesOnInstruction clearing [(5, 0x01#8), (0xFFFF, 0xAF#8)] ∧ ∃ t, step clearing = .next t := ⟨by unfold agreesOnInstruction; decide, _, rfl⟩
theorem witness_StepReadsOnlyItsOwnBytes_refused : agreesOnInstruction jumpAtTop [(5, 0x01#8), (0xFFFE, 0xC3#8)] ∧ ∃ r, step jumpAtTop = .refused r := ⟨by unfold agreesOnInstruction; decide, _, rfl⟩
theorem witness_StepReadsOnlyItsOwnBytes_fault : agreesOnInstruction stopped [(5, 0x01#8)] ∧ ∃ f, step stopped = .fault f := ⟨by unfold agreesOnInstruction; decide, _, rfl⟩
theorem witness_InterruptStateIsInert : ∃ t, step wrapped = .next t := ⟨_, rfl⟩

theorem witness_CanonicalMemoryIsUnique : Memory.wf [(0, 0xFF#8), (65535, 0x01#8)] = true := by decide
theorem witness_SpaceReadIsLittleEndian : 65535 + Width.w8.bytes - 1 ≤ 65535 ∧ 65535 < 65535 + Width.w16.bytes - 1 := by decide
theorem witness_SpaceWriteIsAllOrNothing : Memory.wf [(65528, 0xFF#8)] = true ∧ 65528 + Width.w64.bytes - 1 ≤ 65535 := by decide
theorem witness_SpaceWriteIsAllOrNothing_past : Memory.wf [(65529, 0xFF#8)] = true ∧ 65535 < 65529 + Width.w64.bytes - 1 := by decide
theorem witness_SpaceLoadCopiesOrRefuses : Memory.wf [] = true ∧ 65534 + [0x01#8, 0x02#8].length - 1 ≤ 65535 := by decide
theorem witness_SpaceLoadCopiesOrRefuses_past : Memory.wf [] = true ∧ 65535 < 65535 + [0x01#8, 0x02#8].length - 1 := by decide
theorem witness_FirstMappingWins : firstHit .closedAnd memoryMap 0x4000 = some ramView.mapping ∧ firstHit .sourceOr memoryMap 0x4000 = some romView.mapping ∧ firstHit .closedAnd memoryMap 0x10000 = none := by decide
theorem witness_RamWriteReadsBack : State.reset.mem.wf = true ∧ State.reset.hitMode = .closedAnd ∧ 0x4000 ≤ (0x4000#16).toNat ∧ (0x4000#16).toNat + Width.w16.bytes ≤ 65536 := by decide
theorem witness_RamWriteReadsBack_top : State.reset.mem.wf = true ∧ State.reset.hitMode = .closedAnd ∧ 0x4000 ≤ (0xFFF8#16).toNat ∧ (0xFFF8#16).toNat + Width.w64.bytes ≤ 65536 := by decide
theorem witness_RouterReadIsSpaceRead : (0x3FFF#16 : Word).toNat + Width.w16.bytes ≤ 65536 ∧ (0xFFFE#16 : Word).toNat + Width.w16.bytes ≤ 65536 := by decide
theorem witness_RouterReadIsSpaceRead_past : 65536 < (0xFFFF#16 : Word).toNat + Width.w16.bytes ∧ 65536 < (0xFFF9#16 : Word).toNat + Width.w64.bytes := by decide
theorem witness_OtherWritesAreDropped_rom : (0x3FFF#16 : Word).toNat < 0x4000 := by decide
theorem witness_OtherWritesAreDropped_past : 65536 < (0xFFF9#16 : Word).toNat + Width.w64.bytes := by decide
theorem witness_OtherWritesAreDropped_mode : { State.reset with hitMode := .sourceOr }.hitMode = .sourceOr := by decide
theorem witness_PortWriteDrivesTheBorder : (0xFE#8 : Byte) = 0xFE#8 ∧ (0xFF#8 : Byte) ≠ 0xFE#8 ∧ State.reset.hitMode = .closedAnd := by decide
theorem witness_XorHelperWritesResultAndFlags : Slot.a ≠ .f ∧ Slot.b ≠ .a ∧ Slot.b ≠ .f := by decide
theorem witness_PairsHoldTheHighByteFirst : Slot.b ≠ RegPair.af.high ∧ Slot.b ≠ RegPair.af.low := by decide
theorem witness_LoadRomCopies : State.reset.mem.wf = true ∧ (List.replicate 16384 (0xFF#8 : Byte)).length ≤ 16384 := ⟨rfl, le_of_eq List.length_replicate⟩
theorem witness_LoadRomCopies_long : State.reset.mem.wf = true ∧ 16384 < (List.replicate 16385 (0xFF#8 : Byte)).length := ⟨rfl, by rw [List.length_replicate]; decide⟩
theorem witness_ProcessInstructionReply : (∃ t, step clearing = .next t) ∧ ∃ r, step jumpAtTop = .refused r := ⟨⟨_, rfl⟩, _, rfl⟩
theorem witness_DisassemblerAgreesWithExecutor : loadingA.mem.read (0x3FFF#16).toNat = 0x3E#8 ∧ loadingB.mem.read (0xFFFF#16).toNat = 0x06#8 ∧ clearing.mem.read (0xFFFF#16).toNat = 0xAF#8 ∧ wrapped.mem.read (0xFFFF#16).toNat = 0xC3#8 := by decide
/-- DA5, DA6, DA8, DA9: one string for each of the lengths 2, 2, 4, 3. -/
theorem witness_PrefixedBytesFailToDisassemble :
    ((coreAt 0xFFFF#16 [0xDD#8, 0x21#8]).mem.read (0xFFFF#16).toNat = 0xDD#8 ∧ (coreAt 0xFFFF#16 [0xDD#8, 0x21#8]).mem.read (0xFFFF#16 + 1#16 : Word).toNat = 0x21#8) ∧
    ((coreAt 0#16 [0xED#8, 0xB0#8]).mem.read (0#16).toNat = 0xED#8 ∧ (coreAt 0#16 [0xED#8, 0xB0#8]).mem.read (0#16 + 1#16 : Word).toNat = 0xB0#8) ∧
    ((coreAt 0#16 [0xDD#8, 0xCB#8]).mem.read (0#16).toNat = 0xDD#8 ∧ (coreAt 0#16 [0xDD#8, 0xCB#8]).mem.read (0#16 + 1#16 : Word).toNat = 0xCB#8) ∧
    ((coreAt 0#16 [0xFD#8, 0xED#8]).mem.read (0#16).toNat = 0xFD#8 ∧ (coreAt 0#16 [0xFD#8, 0xED#8]).mem.read (0#16 + 1#16 : Word).toNat = 0xED#8) ∧
    (0xDD#8 : Byte) ∈ [0xDD#8, 0xFD#8, 0xED#8, 0xCB#8] := by decide
theorem witness_UnimplementedOpcodesDisassemble : halting.mem.read (0xFFFF#16).toNat = 0x76#8 ∧ (0x76#8 : Byte) ∉ [0x06#8, 0x3E#8, 0xAF#8, 0xC3#8, 0xDD#8, 0xFD#8, 0xED#8, 0xCB#8] := by decide

end Sys2Proof.Machine.Tests
end

namespace Sys2Proof.Machine

/-! ### The dispatch table (10_state.md R51) -/

/-- An implemented entry stands at its handler's byte and nowhere else. -/
theorem dispatchTable_eq_implemented_iff {op : Byte} {h : Handler} :
    dispatchTable op = .implemented h ↔ op = h.opcode where
  mp := dispatchTable_implemented
  mpr := by
    rintro rfl
    exact dispatchTable_opcode h

/-- The unimplemented form is well-formed exactly at the bytes outside `IMPLEMENTED`. -/
theorem wf_unimplemented_iff {op : Byte} :
    (Instr.unimplemented op).wf = true ↔ op ∉ Config.implemented := by
  simp [Instr.wf]

/-- Settles O4: the implemented entries by the table's entry at each handler's byte, the others by the well-formedness
of the unimplemented form, which names `IMPLEMENTED`. -/
theorem dispatchTableHasFourHandlers : Obligations.DispatchTableHasFourHandlers :=
  ⟨fun _ _ => dispatchTable_eq_implemented_iff,
    fun _ => dispatchTable_unimplemented.trans wf_unimplemented_iff⟩

end Sys2Proof.Machine

namespace Sys2Proof.Machine

/-! ### The bytes of a little-endian value (20_memory.md R71, R72, R110) -/

/-- Byte `i` of a vector is byte `i` of its number. -/
theorem setWidth_ushiftRight_eq_ofNat {n : Nat} (v : BitVec n) (i : Nat) :
    (v >>> (8 * i)).setWidth 8 = BitVec.ofNat 8 (v.toNat >>> (8 * i)) := by
  apply BitVec.eq_of_toNat_eq
  simp

/-- Byte `i` of a number cut to `n` bytes is byte `i` of the number. -/
theorem setWidth_ushiftRight_ofNat {n i : Nat} (x : Nat) (lt : i < n) :
    (BitVec.ofNat (8 * n) x >>> (8 * i)).setWidth 8 = BitVec.ofNat 8 (x >>> (8 * i)) := by
  apply BitVec.eq_of_getLsbD_eq
  intro j hj
  have inWidth : 8 * i + j < 8 * n := by omega
  simp only [BitVec.getLsbD_setWidth, BitVec.getLsbD_ushiftRight, BitVec.getLsbD_ofNat, Nat.testBit_shiftRight, hj,
    inWidth, decide_true, Bool.true_and]

/-- Byte `i + 1` of a number is byte `i` of the number without its lowest byte. -/
theorem shiftRight_byte_succ (x i : Nat) : x >>> (8 * (i + 1)) = (x / 256) >>> (8 * i) := by
  rw [Nat.mul_add_one, Nat.add_comm, Nat.shiftRight_add, Nat.shiftRight_eq_div_pow x 8]

/-! ### The sum of R71 and the loop of R72, byte by byte -/

/-- Byte `i` of the sum is the byte at `a + i`. -/
theorem Memory.ofNat_readLe_shiftRight {a n i : Nat} (m : Memory) (lt : i < n) :
    BitVec.ofNat 8 (m.readLe a n >>> (8 * i)) = m.read (a + i) := by
  induction n generalizing a i with
  | zero => omega
  | succ n ih =>
    cases i with
    | zero =>
      apply BitVec.eq_of_toNat_eq
      simpa [Memory.readLe] using (m.read a).isLt
    | succ i =>
      have high : m.readLe a (n + 1) / 256 = m.readLe (a + 1) n := by
        have byte := (m.read a).isLt
        rw [Memory.readLe]
        omega
      rw [shiftRight_byte_succ, high, ih (by omega), Nat.add_right_comm, Nat.add_assoc]

/-- The loop leaves every address outside its range as it was. -/
theorem Memory.read_writeLe_outside {a n b v : Nat} (m : Memory) (out : b < a ∨ a + n ≤ b) :
    (m.writeLe a n v).read b = m.read b := by
  induction n generalizing m a v with
  | zero => rfl
  | succ n ih => rw [Memory.writeLe, ih _ (by omega), Memory.read_write_ne m _ (by omega)]

/-- The loop puts byte `i` of the number at `a + i`. -/
theorem Memory.read_writeLe_inside {a n i v : Nat} {m : Memory} (h : m.wf = true) (le : a + n ≤ Config.memSize)
    (lt : i < n) : (m.writeLe a n v).read (a + i) = BitVec.ofNat 8 (v >>> (8 * i)) := by
  induction n generalizing m a i v with
  | zero => omega
  | succ n ih =>
    rw [Memory.writeLe]
    cases i with
    | zero => exact (Memory.read_writeLe_outside _ (.inl (Nat.lt_succ_self a))).trans (Memory.read_write_same _ h)
    | succ i =>
      have next : a + (i + 1) = a + 1 + i := by omega
      rw [next, ih (Memory.wf_write _ h (by omega)) (by omega) (by omega), shiftRight_byte_succ]

/-! ### SpaceRead and SpaceWrite on each side of the bound (R71, R72) -/

theorem Memory.inRange_iff {phys n : Nat} : Memory.inRange phys n = true ↔ phys + n - 1 ≤ 65535 :=
  decide_eq_true_iff

theorem Memory.spaceRead_inside {phys : Nat} {w : Width} (m : Memory) (le : phys + w.bytes - 1 ≤ 65535) :
    m.spaceRead phys w = some (BitVec.ofNat (8 * w.bytes) (m.readLe phys w.bytes)) :=
  if_pos (Memory.inRange_iff.2 le)

theorem Memory.spaceRead_past {phys : Nat} {w : Width} (m : Memory) (past : 65535 < phys + w.bytes - 1) :
    m.spaceRead phys w = none :=
  if_neg (mt Memory.inRange_iff.1 past.not_ge)

theorem Memory.spaceWrite_inside {phys : Nat} {w : Width} (m : Memory) (v : BitVec (8 * w.bytes))
    (le : phys + w.bytes - 1 ≤ 65535) : m.spaceWrite phys w v = m.writeLe phys w.bytes v.toNat :=
  if_pos (Memory.inRange_iff.2 le)

theorem Memory.spaceWrite_past {phys : Nat} {w : Width} (m : Memory) (v : BitVec (8 * w.bytes))
    (past : 65535 < phys + w.bytes - 1) : m.spaceWrite phys w v = m :=
  if_neg (mt Memory.inRange_iff.1 past.not_ge)

/-- Byte `i` of the value written at `phys` reads back at `phys + i`. -/
theorem Memory.read_spaceWrite_inside {phys i : Nat} {w : Width} {m : Memory} (v : BitVec (8 * w.bytes))
    (h : m.wf = true) (le : phys + w.bytes - 1 ≤ 65535) (lt : i < w.bytes) :
    (m.spaceWrite phys w v).read (phys + i) = (v >>> (8 * i)).setWidth 8 := by
  have fits : phys + w.bytes ≤ 65536 := by omega
  rw [Memory.spaceWrite_inside m v le, Memory.read_writeLe_inside h fits lt, setWidth_ushiftRight_eq_ofNat]

/-- `SpaceWrite` leaves every address outside its range as it was. -/
theorem Memory.read_spaceWrite_outside {phys a : Nat} {w : Width} (m : Memory) (v : BitVec (8 * w.bytes))
    (out : a < phys ∨ phys + w.bytes ≤ a) : (m.spaceWrite phys w v).read a = m.read a := by
  unfold Memory.spaceWrite
  split
  · exact Memory.read_writeLe_outside m out
  · rfl

/-- Settles O40: in range the value is the sum of R71, whose byte `i` is the byte at `phys + i`. -/
theorem spaceReadIsLittleEndian : Obligations.SpaceReadIsLittleEndian := fun m _ _ =>
  ⟨fun le => ⟨_, Memory.spaceRead_inside m le, fun _ lt =>
      (setWidth_ushiftRight_ofNat _ lt).trans (Memory.ofNat_readLe_shiftRight m lt)⟩,
    Memory.spaceRead_past m⟩

/-- Settles O41: in range the bytes of R72's loop and its frame, past the end the memory itself. -/
theorem spaceWriteIsAllOrNothing : Obligations.SpaceWriteIsAllOrNothing := fun m _ _ v h =>
  ⟨fun le => ⟨fun _ => Memory.read_spaceWrite_inside v h le, fun _ => Memory.read_spaceWrite_outside m v⟩,
    Memory.spaceWrite_past m v⟩

end Sys2Proof.Machine

namespace Sys2Proof.Machine

/-! ### The decoder at an opcode byte with no handler (30_encoding.md R135) -/

/-- A handler's operands make one of the four implemented instructions. -/
theorem decodeOperands_ne_unimplemented {h : Handler} {op op' : Byte} {rest rest' : List Byte} :
    decodeOperands h op rest ≠ .ok (.unimplemented op', rest') := by
  unfold decodeOperands
  split <;> simp

/-- What decodes to the unimplemented form is its byte, and that byte has no handler. -/
theorem decode_eq_unimplemented_iff {op op' : Byte} {rest rest' : List Byte} {i : Instr}
    (hd : decode (op :: rest) = .ok (i, rest')) :
    i = .unimplemented op' ↔ dispatchTable op = .unimplemented ∧ op' = op := by
  cases e : dispatchTable op with
  | unimplemented =>
    simp only [decode, e, Except.ok.injEq, Prod.mk.injEq] at hd
    obtain ⟨rfl, -⟩ := hd
    simp [eq_comm]
  | implemented h =>
    simp only [decode, e] at hd
    have ne : i ≠ .unimplemented op' := by
      rintro rfl
      exact decodeOperands_ne_unimplemented hd
    simp [ne]

/-! ### The step by the run status, Modifier and the opcode byte (40_dispatch.md R150, R151, R156, R157) -/

/-- A stopped core has no step (R151). -/
theorem step_of_stopped {s : State} {why : Option StopOutcome} (stop : s.status = .stopped why) :
    step s = .fault (.coreStopped why) := by
  simp only [step, stop]

/-- Where Modifier is set the step is the failure `prefixPath`, whatever the byte (R157). -/
theorem step_of_prefixPending {s : State} (run : s.status = .running) (pending : s.modifier ≠ 0x00#8) :
    step s = .next (s.prefixPath (s.mem.read s.pc.toNat)) := by
  obtain ⟨why, stop, -⟩ | ⟨-, -, e⟩ | ⟨-, noPrefix, -⟩ := step_cases s
  · exact nomatch run.symm.trans stop
  · exact e
  · exact absurd noPrefix pending

/-- Where Modifier is clear the step runs what the bytes at PC decode to, the opcode byte first (R150). -/
theorem step_of_noPrefix {s : State} (run : s.status = .running) (noPrefix : s.modifier = 0x00#8) :
    ∃ i rest, decode (s.mem.read s.pc.toNat :: rest) = .ok (i, []) ∧ step s = exec i s := by
  obtain ⟨why, stop, -⟩ | ⟨-, pending, -⟩ | ⟨-, -, i, -, hd, e⟩ := step_cases s
  · exact nomatch run.symm.trans stop
  · exact absurd noPrefix pending
  · rw [bytesAt_instrLength] at hd
    exact ⟨i, _, hd, e⟩

/-- Where Modifier is clear a byte that has no handler is the fatal fault (R156). -/
theorem step_of_noHandler {s : State} (run : s.status = .running) (noPrefix : s.modifier = 0x00#8)
    (noHandler : dispatchTable (s.mem.read s.pc.toNat) = .unimplemented) :
    step s = .next (s.unimplementedOpcode (s.mem.read s.pc.toNat)) := by
  obtain ⟨i, rest, hd, e⟩ := step_of_noPrefix run noPrefix
  rw [e, (decode_eq_unimplemented_iff hd).2 ⟨noHandler, rfl⟩]
  rfl

/-! ### JP nn on each side of the top of the space (43_jump.md R200) -/

/-- With the opcode at 0xFFFE the word starts at 0xFFFF, and JP nn is refused. -/
theorem exec_jp_top {s : State} (nn : Word) (top : s.pc = 0xFFFE#16) :
    exec (.jp nn) s = .refused (.wordFetchAtTop 0xFFFF#16) := by
  simp only [exec, execJp, s.fetched.passWord_top ((pc_succ_top s.pc).2 top)]

/-- With the opcode anywhere else JP nn has a next state. -/
theorem exec_jp_below {s : State} (nn : Word) (below : s.pc ≠ 0xFFFE#16) :
    exec (.jp nn) s = .next ((s.fetched.setPc nn).tick Handler.jp.tStates) := by
  simp only [exec, execJp, s.fetched.passWord_ok (mt (pc_succ_top s.pc).1 below)]
  rfl

/-! ### How a step with a next state ended (R155 to R157) -/

/-- An instruction that has a next state keeps the run status, unless it is the unimplemented form. -/
theorem exec_next_status {i : Instr} {s t : State} (h : exec i s = .next t) :
    t.status = s.status ∨
      ∃ op, i = .unimplemented op ∧ t.status = .stopped (some (.unimplementedOpcode op s.pc)) := by
  cases i with
  | ldB n => cases h; exact .inl rfl
  | ldA n => cases h; exact .inl rfl
  | xorA => cases h; exact .inl rfl
  | unimplemented op => cases h; exact .inr ⟨op, rfl, rfl⟩
  | jp nn =>
    by_cases top : s.pc = 0xFFFE#16
    · exact nomatch (exec_jp_top nn top).symm.trans h
    · cases (exec_jp_below nn top).symm.trans h
      exact .inl rfl

/-- A step with a next state ended Ok, Fatal or Failed, with the byte at PC and its address recorded. -/
theorem step_next_status {s t : State} (h : step s = .next t) :
    t.status = .running ∨
      t.status = .stopped (some (.unimplementedOpcode (s.mem.read s.pc.toNat) s.pc)) ∨
      t.status = .stopped (some (.prefixPathUnsupported (s.mem.read s.pc.toNat) s.pc)) := by
  cases run : s.status with
  | stopped why => exact nomatch (step_of_stopped run).symm.trans h
  | running =>
    by_cases noPrefix : s.modifier = 0x00#8
    · obtain ⟨i, rest, hd, e⟩ := step_of_noPrefix run noPrefix
      obtain kept | ⟨op, isOp, stop⟩ := exec_next_status (e.symm.trans h)
      · exact .inl (kept.trans run)
      · obtain ⟨-, rfl⟩ := (decode_eq_unimplemented_iff hd).1 isOp
        exact .inr (.inl stop)
    · cases (step_of_prefixPending run noPrefix).symm.trans h
      exact .inr (.inr rfl)

/-! ### ProcessInstruction by the step's outcome (R163) -/

theorem perform_processInstruction_next {s t : State} (h : step s = .next t) :
    s.perform .processInstruction = (t, .flag (decide (t.status = .running))) := by
  simp only [State.perform, State.processInstruction, h]

theorem perform_processInstruction_fault {s : State} {f : Fault} (h : step s = .fault f) :
    s.perform .processInstruction = (s, .noStep) := by
  simp only [State.perform, State.processInstruction, h]

theorem perform_processInstruction_refused {s : State} {r : Refusal} (h : step s = .refused r) :
    s.perform .processInstruction = (s.refuseStep r, .refused r) := by
  simp only [State.perform, State.processInstruction, h]

/-- A refused step leaves its refusal in the status (R247). -/
@[simp] theorem State.refuseStep_status (s : State) (r : Refusal) :
    (s.refuseStep r).status = .stopped (some (.refused r)) := by
  obtain ⟨pc, r', d, e⟩ := s.refuseStep_cases r
  rw [e]

/-- The answer is `true` exactly for a step that ended Ok. -/
theorem processInstruction_true_iff {s : State} :
    (s.perform .processInstruction).2 = .flag true ↔ ∃ t, s.stepsOk t := by
  unfold State.stepsOk
  cases h : step s with
  | next t => simp [perform_processInstruction_next h]
  | fault f => simp [perform_processInstruction_fault h]
  | refused r => simp [perform_processInstruction_refused h]

/-- The answer is `false` exactly for a step whose next state is stopped. -/
theorem processInstruction_false_iff {s : State} :
    (s.perform .processInstruction).2 = .flag false ↔ ∃ t, step s = .next t ∧ t.status ≠ .running := by
  cases h : step s with
  | next t => simp [perform_processInstruction_next h]
  | fault f => simp [perform_processInstruction_fault h]
  | refused r => simp [perform_processInstruction_refused h]

/-! ### ReadWord (R154) -/

/-- Away from the top `ReadWord` is two reads of one byte. -/
theorem State.readWord_ok (s : State) (h : s.pc ≠ 0xFFFF#16) :
    s.readWord =
      .ok (wordOf (s.mem.read s.pc.toNat) (s.mem.read (s.pc + 1#16).toNat), s.setPc (s.pc + 2#16)) := by
  have two : s.pc + 1#16 + 1#16 = s.pc + 2#16 := by rw [BitVec.add_assoc]; rfl
  simp only [State.readWord, if_neg h, State.readByte_eq, State.setPc_pc, State.setPc_mem, two]
  rfl

/-- At the top `ReadWord` is refused. -/
theorem State.readWord_top (s : State) (h : s.pc = 0xFFFF#16) : s.readWord = .error (.wordFetchAtTop 0xFFFF#16) := by
  rw [State.readWord, if_pos h, h]

/-! ### The statements of 40_dispatch.md -/

/-- Settles O20: the byte has no handler, so the step is the fatal fault. -/
theorem stepOfUnimplementedOpcode : Obligations.StepOfUnimplementedOpcode := by
  intro s run noPrefix out
  have next := step_of_noHandler run noPrefix (dispatchTable_unimplemented.2 (wf_unimplemented_iff.2 out))
  exact ⟨_, s.unimplementedOpcode_eq _, next, perform_processInstruction_next next⟩

/-- Settles O21: the step is the failure `prefixPath`, whatever the byte. -/
theorem stepOfPendingPrefix : Obligations.StepOfPendingPrefix := by
  intro s run pending
  have next := step_of_prefixPending run pending
  exact ⟨_, s.prefixPath_eq _, next, perform_processInstruction_next next⟩

/-- Settles O23: by whether PC is at the top. -/
theorem readWordIsTwoBytesLowFirst : Obligations.ReadWordIsTwoBytesLowFirst := by
  intro s
  split
  next top => exact s.readWord_top top
  next below => exact s.readWord_ok below

/-- Settles O26: Init stops the core, ProcessInstruction takes no step, and no other operation starts a run. -/
theorem onlyResetLeavesStopped : Obligations.OnlyResetLeavesStopped := by
  intro s why stop
  have noStep := step_of_stopped stop
  have stays : s.status ≠ .running := by simp [stop]
  refine ⟨noStep, fun q noReset => ?_, fun c => s.hostReset_status c⟩
  by_cases isInit : ∃ d, q = .init d
  · obtain ⟨d, rfl⟩ := isInit
    simp [State.perform, State.init]
  by_cases isStep : q = .processInstruction
  · rwa [isStep, perform_processInstruction_fault noStep]
  obtain ⟨m, b, st, d, o, e, kept | stopped, -⟩ :=
    s.perform_cases q (fun d h => isInit ⟨d, h⟩) noReset isStep
  · rwa [e, kept]
  · rwa [e]

/-- Settles O54: `true` and `false` by the next state's status, which for a stopped one is Fatal or Failed. -/
theorem processInstructionReply : Obligations.ProcessInstructionReply := by
  intro s
  refine ⟨processInstruction_true_iff,
    processInstruction_false_iff.trans (exists_congr fun t => and_congr_right fun next => ?_),
    fun t next => ?_, fun r refused => ?_⟩
  · constructor
    · exact (step_next_status next).resolve_left
    · rintro (fatal | failed)
      · simp [fatal]
      · simp [failed]
  · rw [perform_processInstruction_next next]
  · simp [perform_processInstruction_refused refused]

end Sys2Proof.Machine

namespace Sys2Proof.Machine

/-! ### The background of the register file (the frame the instructions share) -/

@[simp] theorem State.sameBackground_refl (s : State) : s.sameBackground s := by
  simp [State.sameBackground]

/-- A write to a register slot is no part of the background. -/
@[simp] theorem State.sameBackground_setReg_iff {s t : State} {x : Slot} {v : Byte} :
    s.sameBackground (t.setReg x v) ↔ s.sameBackground t := Iff.rfl

/-! ### The XOR helper by the slot that is read (42_logic.md R190) -/

/-- The helper is a write of its destination and then a write of F. -/
theorem State.xorHelper_eq_setReg (s : State) (op1 op2 : Byte) (dest : Slot) :
    s.xorHelper op1 op2 dest = (s.setReg dest (op1 ^^^ op2)).setReg .f (flagsTable (op1 ^^^ op2)) := rfl

/-- F holds the table's entry, also where F is the destination: its write comes last. -/
@[simp] theorem State.reg_xorHelper_f (s : State) (op1 op2 : Byte) (dest : Slot) :
    (s.xorHelper op1 op2 dest).reg .f = flagsTable (op1 ^^^ op2) := by
  rw [State.xorHelper_eq_setReg, State.reg_setReg_same]

/-- A destination other than F holds the result: the write of F spares it. -/
theorem State.reg_xorHelper_dest (s : State) (op1 op2 : Byte) {dest : Slot} (notF : dest ≠ .f) :
    (s.xorHelper op1 op2 dest).reg dest = op1 ^^^ op2 := by
  rw [State.xorHelper_eq_setReg, State.reg_setReg_ne _ _ notF, State.reg_setReg_same]

/-- Both writes spare every other slot. -/
theorem State.reg_xorHelper_ne (s : State) (op1 op2 : Byte) {dest x : Slot} (notDest : x ≠ dest) (notF : x ≠ .f) :
    (s.xorHelper op1 op2 dest).reg x = s.reg x := by
  rw [State.xorHelper_eq_setReg, State.reg_setReg_ne _ _ notF, State.reg_setReg_ne _ _ notDest]

@[simp] theorem State.sameBackground_xorHelper (s : State) (op1 op2 : Byte) (dest : Slot) :
    s.sameBackground (s.xorHelper op1 op2 dest) := by
  rw [State.xorHelper_eq_setReg, State.sameBackground_setReg_iff, State.sameBackground_setReg_iff]
  exact s.sameBackground_refl

/-- Settles O48: the helper's two writes, read at F, at the destination and at any other slot, and their frame. -/
theorem xorHelperWritesResultAndFlags : Obligations.XorHelperWritesResultAndFlags := fun s op1 op2 dest =>
  ⟨s.reg_xorHelper_f op1 op2 dest,
    s.reg_xorHelper_dest op1 op2,
    fun _ => s.reg_xorHelper_ne op1 op2,
    s.sameBackground_xorHelper op1 op2 dest⟩

end Sys2Proof.Machine

namespace Sys2Proof.Machine

/-! ### The prefix scan by its stages (45_disassembler.md R215) -/

/-- A DD or FD is recorded, and the byte after it read. -/
theorem State.scanIndex_of_prefix (s : State) {x : Scan} (h : x.byte = 0xDD#8 ∨ x.byte = 0xFD#8) :
    s.scanIndex x = .ok ⟨some x.byte, x.edcb, s.mem.read x.cursor.toNat, x.cursor + 1#16⟩ := by
  simp only [State.scanIndex, if_pos h, State.nextByte_eq]

/-- Any other byte is left to the second stage. -/
theorem State.scanIndex_of_other (s : State) {x : Scan} (h : ¬ (x.byte = 0xDD#8 ∨ x.byte = 0xFD#8)) :
    s.scanIndex x = .ok x := if_neg h

/-- An ED or CB is recorded, and the byte after it read. -/
theorem State.scanExtended_of_prefix (s : State) {x : Scan} (h : x.byte = 0xED#8 ∨ x.byte = 0xCB#8) :
    s.scanExtended x = .ok ⟨x.ddfd, some x.byte, s.mem.read x.cursor.toNat, x.cursor + 1#16⟩ := by
  simp only [State.scanExtended, if_pos h, State.nextByte_eq]

/-- Any other byte is the opcode. -/
theorem State.scanExtended_of_other (s : State) {x : Scan} (h : ¬ (x.byte = 0xED#8 ∨ x.byte = 0xCB#8)) :
    s.scanExtended x = .ok x := if_neg h

/-- After DD or FD and CB the byte read is the displacement, and the opcode stands after it. -/
theorem State.scanDisplacement_of_ddcb (s : State) {x : Scan} (h : x.ddfd ≠ none ∧ x.edcb = some 0xCB#8) :
    s.scanDisplacement x = .ok { x with byte := s.mem.read x.cursor.toNat, cursor := x.cursor + 1#16 } := by
  simp only [State.scanDisplacement, if_pos h, State.nextByte_eq]

/-- No other prefix pair has a displacement. -/
theorem State.scanDisplacement_of_other (s : State) {x : Scan} (h : ¬ (x.ddfd ≠ none ∧ x.edcb = some 0xCB#8)) :
    s.scanDisplacement x = .ok x := if_neg h

/-- The scan is its three stages in turn, from the first byte. -/
theorem State.prefixScan_of_stages {s : State} {a : Word} {x y : Scan}
    (index : s.scanIndex ⟨none, none, s.mem.read a.toNat, a + 1#16⟩ = .ok x) (extended : s.scanExtended x = .ok y) :
    s.prefixScan a = s.scanDisplacement y := by
  simp only [State.prefixScan, State.nextByte_eq, index, extended]

/-! ### The prefix scan by the prefix bytes (R213, R215) -/

/-- ED or CB alone: the second byte is the opcode, whatever it is. -/
theorem State.prefixScan_edcb {s : State} {a : Word}
    (first : s.mem.read a.toNat = 0xED#8 ∨ s.mem.read a.toNat = 0xCB#8) :
    s.prefixScan a = .ok ⟨none, some (s.mem.read a.toNat), s.mem.read (a + 1#16).toNat, a + 1#16 + 1#16⟩ := by
  have noIndex : ¬ (s.mem.read a.toNat = 0xDD#8 ∨ s.mem.read a.toNat = 0xFD#8) := by
    obtain e | e := first
    · simp [e]
    · simp [e]
  rw [State.prefixScan_of_stages (s.scanIndex_of_other noIndex) (s.scanExtended_of_prefix first),
    s.scanDisplacement_of_other (by simp)]

/-- DD or FD alone: the second byte is the opcode. -/
theorem State.prefixScan_ddfd {s : State} {a : Word}
    (first : s.mem.read a.toNat = 0xDD#8 ∨ s.mem.read a.toNat = 0xFD#8)
    (second : ¬ (s.mem.read (a + 1#16).toNat = 0xED#8 ∨ s.mem.read (a + 1#16).toNat = 0xCB#8)) :
    s.prefixScan a = .ok ⟨some (s.mem.read a.toNat), none, s.mem.read (a + 1#16).toNat, a + 1#16 + 1#16⟩ := by
  rw [State.prefixScan_of_stages (s.scanIndex_of_prefix first) (s.scanExtended_of_other second),
    s.scanDisplacement_of_other (by simp)]

/-- DD or FD before ED: the third byte is the opcode. -/
theorem State.prefixScan_ddfd_ed {s : State} {a : Word}
    (first : s.mem.read a.toNat = 0xDD#8 ∨ s.mem.read a.toNat = 0xFD#8) (second : s.mem.read (a + 1#16).toNat = 0xED#8) :
    s.prefixScan a =
      .ok ⟨some (s.mem.read a.toNat), some 0xED#8, s.mem.read (a + 1#16 + 1#16).toNat, a + 1#16 + 1#16 + 1#16⟩ := by
  rw [State.prefixScan_of_stages (s.scanIndex_of_prefix first) (s.scanExtended_of_prefix (.inl second)), second,
    s.scanDisplacement_of_other (by simp)]

/-- DD or FD before CB: the fourth byte is the opcode, behind the displacement. -/
theorem State.prefixScan_ddfd_cb {s : State} {a : Word}
    (first : s.mem.read a.toNat = 0xDD#8 ∨ s.mem.read a.toNat = 0xFD#8) (second : s.mem.read (a + 1#16).toNat = 0xCB#8) :
    s.prefixScan a =
      .ok ⟨some (s.mem.read a.toNat), some 0xCB#8, s.mem.read (a + 1#16 + 1#16 + 1#16).toNat,
        a + 1#16 + 1#16 + 1#16 + 1#16⟩ := by
  rw [State.prefixScan_of_stages (s.scanIndex_of_prefix first) (s.scanExtended_of_prefix (.inr second)), second,
    s.scanDisplacement_of_ddcb (by simp)]

/-- A cursor advanced by `n` has consumed `n` bytes, also across the top of the space. -/
@[simp] theorem consumed_add (a n : Word) : consumed a (a + n) = n.toNat := by
  rw [consumed, BitVec.add_comm, BitVec.add_sub_cancel]

/-- From a prefix byte the scan ends with a prefix recorded, after as many bytes as the first two settle. -/
theorem State.prefixScan_of_prefix (s : State) (a : Word)
    (first : s.mem.read a.toNat ∈ [0xDD#8, 0xFD#8, 0xED#8, 0xCB#8]) :
    ∃ x, s.prefixScan a = .ok x ∧ (x.ddfd ≠ none ∨ x.edcb ≠ none) ∧
      consumed a x.cursor =
        if s.mem.read a.toNat = 0xED#8 ∨ s.mem.read a.toNat = 0xCB#8 then 2
        else if s.mem.read (a + 1#16).toNat = 0xCB#8 then 4
        else if s.mem.read (a + 1#16).toNat = 0xED#8 then 3 else 2 := by
  split
  next edcb => exact ⟨_, State.prefixScan_edcb edcb, .inr nofun, by simp [BitVec.add_assoc]⟩
  next notEdcb =>
    have ddfd : s.mem.read a.toNat = 0xDD#8 ∨ s.mem.read a.toNat = 0xFD#8 := by
      simp only [List.mem_cons, List.not_mem_nil, or_false] at first
      tauto
    split
    next cb => exact ⟨_, State.prefixScan_ddfd_cb ddfd cb, .inl nofun, by simp [BitVec.add_assoc]⟩
    next notCb =>
      split
      next ed => exact ⟨_, State.prefixScan_ddfd_ed ddfd ed, .inl nofun, by simp [BitVec.add_assoc]⟩
      next notEd =>
        exact ⟨_, State.prefixScan_ddfd ddfd (not_or.2 ⟨notEd, notCb⟩), .inl nofun, by simp [BitVec.add_assoc]⟩

/-! ### The empty tables (R212, R213, R216) -/

/-- Only the `Standard` table has entries. -/
theorem InstrTable.entry_eq_none {t : InstrTable} (h : t ≠ .standard) (op : Byte) : t.entry op = none := by
  have empty : t.size = 0 := by
    cases t with
    | standard => exact absurd rfl h
    | ed | ddfd | cb | ddfdcb | ddfded => rfl
  simp [InstrTable.entry, empty]

/-- Where a prefix was seen the selected table is not `Standard`. -/
theorem selectTable_ne_standard {ddfd edcb : Option Byte} (h : ddfd ≠ none ∨ edcb ≠ none) :
    selectTable ddfd edcb ≠ .standard := by
  unfold selectTable
  split
  next => simp at h
  next => split <;> nofun
  next => nofun
  next => split <;> nofun

/-- A scan that ends with a prefix recorded fails on the empty table, with the bytes it consumed. -/
theorem State.perform_decodeInstruction_of_prefix {s : State} {a : Word} {x : Scan} (scan : s.prefixScan a = .ok x)
    (pre : x.ddfd ≠ none ∨ x.edcb ≠ none) :
    s.perform (.decodeInstruction a) =
      (s.emit [.log .error ""], .disassembly false ['?', '?', '?'] (consumed a x.cursor)) := by
  have noEntry := InstrTable.entry_eq_none (selectTable_ne_standard pre) x.byte
  simp only [State.perform, State.decodeInstruction, scan, noEntry]

/-- Settles O57: the scan records a prefix, so the table it selects is empty; the length is the scan's. -/
theorem prefixedBytesFailToDisassemble : Obligations.PrefixedBytesFailToDisassemble := by
  rintro s a b0 b1 rfl rfl first
  obtain ⟨x, scan, pre, length⟩ := s.prefixScan_of_prefix a first
  rw [State.perform_decodeInstruction_of_prefix scan pre, length]
  rfl

end Sys2Proof.Machine

namespace Sys2Proof.Machine

/-! ### The copy loop of LoadROM, byte by byte (20_memory.md R73) -/

/-- The copy leaves every address outside its range as it was. -/
theorem Memory.read_copyIn_outside {a b : Nat} {data : List Byte} (m : Memory) (out : b < a ∨ a + data.length ≤ b) :
    (m.copyIn a data).read b = m.read b := by
  induction data generalizing m a with
  | nil => rfl
  | cons v rest ih =>
    rw [List.length_cons] at out
    rw [Memory.copyIn, ih _ (by omega), Memory.read_write_ne m v (by omega)]

/-- The copy puts byte `i` of the data at `a + i`. -/
theorem Memory.read_copyIn_inside {a i : Nat} {data : List Byte} {m : Memory} (h : m.wf = true)
    (le : a + data.length ≤ Config.memSize) (lt : i < data.length) : (m.copyIn a data).read (a + i) = data[i] := by
  induction data generalizing m a i with
  | nil => exact absurd lt (Nat.not_lt_zero i)
  | cons v rest ih =>
    rw [List.length_cons] at le lt
    rw [Memory.copyIn]
    cases i with
    | zero => exact (Memory.read_copyIn_outside _ (.inl (Nat.lt_succ_self a))).trans (Memory.read_write_same v h)
    | succ i =>
      have next : a + (i + 1) = a + 1 + i := by omega
      rw [next, ih (Memory.wf_write v h (by omega)) (by omega) (by omega), List.getElem_cons_succ]

/-! ### LoadROM on each side of the bound (70_reset_and_hazards.md R285) -/

theorem State.perform_loadRom_long {s : State} {bytes : List Byte} (long : 16384 < bytes.length) :
    s.perform (.loadRom bytes) = (s, .flag false) := by
  obtain ⟨-, refused⟩ | ⟨le, -⟩ := s.loadRom_cases bytes
  · simp only [State.perform, refused]
  · exact absurd long le.not_gt

theorem State.perform_loadRom_fits {s : State} {bytes : List Byte} (fits : bytes.length ≤ 16384) :
    s.perform (.loadRom bytes) = (s.setMem (s.mem.copyIn 0 bytes), .flag true) := by
  obtain ⟨long, -⟩ | ⟨-, copied⟩ := s.loadRom_cases bytes
  · exact absurd long fits.not_gt
  · simp only [State.perform, copied]

/-! ### The statements of 70_reset_and_hazards.md -/

/-- Settles O53: the copy from address 0, where the fetch reads the memory the copy left. -/
theorem loadRomCopies : Obligations.LoadRomCopies := by
  intro s bytes canonical
  refine ⟨State.perform_loadRom_long, fun fits => ⟨_, State.perform_loadRom_fits fits, rfl, fun k lt => ?_,
    fun a past => Memory.read_copyIn_outside s.mem (.inr (by omega))⟩⟩
  have inSpace : 0 + bytes.length ≤ 65536 := by omega
  have copied : (s.mem.copyIn 0 bytes).read k = bytes[k] := by
    simpa only [Nat.zero_add] using Memory.read_copyIn_inside canonical inSpace lt
  have address : (BitVec.ofNat 16 k).toNat = k := Nat.mod_eq_of_lt (by omega)
  exact ⟨copied, by rw [State.fetchByte_eq, address, State.setMem_mem, copied]⟩

/-- Settles O51: Reset is the assignment R281 lists, field for field. -/
theorem resetZeroesTheRegisterModel : Obligations.ResetZeroesTheRegisterModel := fun _ _ => rfl

/-- Settles O55: each query answers from the state, or with a constant, and hands the state back. -/
theorem queriesChangeNothing : Obligations.QueriesChangeNothing := fun _ => ⟨rfl, rfl, rfl⟩

end Sys2Proof.Machine

namespace Sys2Proof.Machine

/-! ### The decoder and the encoder undo each other (30_encoding.md R131, R133) -/

theorem decode_of_noHandler {op : Byte} (noHandler : dispatchTable op = .unimplemented) (rest : List Byte) :
    decode (op :: rest) = .ok (.unimplemented op, rest) := by
  simp only [decode, noHandler]

theorem decode_opcode (h : Handler) (rest : List Byte) :
    decode (h.opcode :: rest) = decodeOperands h h.opcode rest := by
  simp only [decode, dispatchTable_opcode]

theorem decode_encode_append {i : Instr} (wf : i.wf = true) (rest : List Byte) :
    decode (encode i ++ rest) = .ok (i, rest) := by
  cases i with
  | ldB n => exact decode_opcode .ldB (n :: rest)
  | ldA n => exact decode_opcode .ldA (n :: rest)
  | xorA => exact decode_opcode .xorA rest
  | jp nn =>
    have read : decodeOperands .jp Handler.jp.opcode (loByte nn :: hiByte nn :: rest) = .ok (.jp nn, rest) := by
      rw [decodeOperands, wordOf_bytes]
    exact (decode_opcode .jp _).trans read
  | unimplemented op => exact decode_of_noHandler (dispatchTable_unimplemented.2 wf) rest

/-- The operands a handler decodes make its own instruction, whose encoding is the opcode and the bytes read. -/
theorem encode_of_decodeOperands {h : Handler} {op : Byte} {bytes rest : List Byte} {i : Instr}
    (hd : decodeOperands h op bytes = .ok (i, rest)) : i.wf = true ∧ encode i ++ rest = h.opcode :: bytes := by
  unfold decodeOperands at hd
  split at hd
  case h_4 lo hi rest' =>
    cases hd
    exact ⟨rfl, by simp [encode, Handler.opcode]⟩
  case h_5 => cases hd
  all_goals
    cases hd
    exact ⟨rfl, rfl⟩

theorem encode_of_decode {bytes rest : List Byte} {i : Instr} (hd : decode bytes = .ok (i, rest)) :
    i.wf = true ∧ encode i ++ rest = bytes := by
  cases bytes with
  | nil => cases hd
  | cons op operands =>
    cases e : dispatchTable op with
    | unimplemented =>
      cases (decode_of_noHandler e operands).symm.trans hd
      exact ⟨dispatchTable_unimplemented.1 e, rfl⟩
    | implemented h =>
      obtain rfl := dispatchTable_implemented e
      exact encode_of_decodeOperands ((decode_opcode h operands).symm.trans hd)

/-- Bytes after an instruction do not change what it decodes to. -/
theorem decode_append {bytes rest : List Byte} {i : Instr} (hd : decode bytes = .ok (i, rest)) (more : List Byte) :
    decode (bytes ++ more) = .ok (i, rest ++ more) := by
  obtain ⟨wf, rfl⟩ := encode_of_decode hd
  rw [List.append_assoc, decode_encode_append wf]

/-- Settles O2: the operands' bytes make the operands again, and a well-formed unimplemented opcode has no handler. -/
theorem decodeOfEncode : Obligations.DecodeOfEncode := fun _ rest wf => decode_encode_append wf rest

/-- Settles O3: by the opcode byte's entry in the dispatch table and the handler's operands. -/
theorem encodeOfDecode : Obligations.EncodeOfDecode := fun _ _ _ => encode_of_decode

/-- Settles O1: six fixed byte strings, evaluated. -/
theorem specWordsDecode : Obligations.SpecWordsDecode := ⟨rfl, rfl, rfl, rfl, rfl, rfl⟩

end Sys2Proof.Machine

namespace Sys2Proof.Machine

/-! ### The contents of the space and its canonical memory (20_memory.md R75) -/

theorem Memory.read_cons_self (k : Nat) (v : Byte) (rest : Memory) : Memory.read ((k, v) :: rest) k = v :=
  if_pos rfl

theorem Memory.read_cons_ne {k a : Nat} (v : Byte) (rest : Memory) (ne : a ≠ k) :
    Memory.read ((k, v) :: rest) a = Memory.read rest a :=
  if_neg ne.symm

/-- A canonical memory differs from one that begins further up: at its own first address. -/
theorem Memory.read_first_ne {lo k : Nat} {v : Byte} {rest m : Memory} (h : Memory.wfFrom lo ((k, v) :: rest) = true)
    (above : m.wfFrom (k + 1) = true) : ∃ a, a < 65536 ∧ Memory.read ((k, v) :: rest) a ≠ m.read a := by
  obtain ⟨-, inSpace, listed, -⟩ := Memory.wfFrom_cons.1 h
  refine ⟨k, inSpace, ?_⟩
  rwa [Memory.read_cons_self, Memory.read_below above (Nat.lt_succ_self k)]

theorem Memory.eq_of_read_eq {lo lo' : Nat} {m m' : Memory} (h : m.wfFrom lo = true) (h' : m'.wfFrom lo' = true)
    (same : ∀ a, a < 65536 → m.read a = m'.read a) : m = m' := by
  induction m generalizing lo lo' m' with
  | nil =>
    cases m' with
    | nil => rfl
    | cons cell' rest' =>
      obtain ⟨a, lt, ne⟩ := Memory.read_first_ne (m := []) h' rfl
      exact absurd (same a lt).symm ne
  | cons cell rest ih =>
    obtain ⟨k, v⟩ := cell
    cases m' with
    | nil =>
      obtain ⟨a, lt, ne⟩ := Memory.read_first_ne (m := []) h rfl
      exact absurd (same a lt) ne
    | cons cell' rest' =>
      obtain ⟨k', v'⟩ := cell'
      obtain ⟨-, inSpace, listed, tail⟩ := Memory.wfFrom_cons.1 h
      obtain ⟨-, inSpace', listed', tail'⟩ := Memory.wfFrom_cons.1 h'
      obtain below | rfl | above := Nat.lt_trichotomy k k'
      · obtain ⟨a, lt, ne⟩ := Memory.read_first_ne h (Memory.wfFrom_cons.2 ⟨below, inSpace', listed', tail'⟩)
        exact absurd (same a lt) ne
      · have first := same k inSpace
        rw [Memory.read_cons_self, Memory.read_cons_self] at first
        have others : ∀ a, a < 65536 → Memory.read rest a = Memory.read rest' a := by
          intro a lt
          by_cases atFirst : a = k
          · subst atFirst
            rw [Memory.read_below tail (Nat.lt_succ_self a), Memory.read_below tail' (Nat.lt_succ_self a)]
          · simpa only [Memory.read_cons_ne _ _ atFirst] using same a lt
        rw [first, ih tail tail' others]
      · obtain ⟨a, lt, ne⟩ := Memory.read_first_ne h' (Memory.wfFrom_cons.2 ⟨above, inSpace, listed, tail⟩)
        exact absurd (same a lt).symm ne

/-- The memory that holds the first 65536 values of `f`. -/
def Memory.ofContents (f : Nat → Byte) : Memory := Memory.copyIn [] 0 ((List.range Config.memSize).map f)

theorem Memory.wf_ofContents (f : Nat → Byte) : (Memory.ofContents f).wf = true :=
  Memory.wf_copyIn rfl (by simp)

theorem Memory.read_ofContents (f : Nat → Byte) {a : Nat} (lt : a < Config.memSize) :
    (Memory.ofContents f).read a = f a := by
  have copied := Memory.read_copyIn_inside (a := 0) (i := a) (data := (List.range Config.memSize).map f) (m := []) rfl
    (by simp) (by simpa using lt)
  simpa [Memory.ofContents] using copied

/-- Settles O38: by induction on the two lists, whose first addresses must agree. -/
theorem canonicalMemoryIsUnique : Obligations.CanonicalMemoryIsUnique := fun _ _ => Memory.eq_of_read_eq

/-- Settles O39: the bytes copied one after the other into a memory with none listed. -/
theorem everyContentsIsAMemory : Obligations.EveryContentsIsAMemory := fun f =>
  ⟨Memory.ofContents f, Memory.wf_ofContents f, fun _ => Memory.read_ofContents f⟩

/-! ### SpaceLoad on each side of the bound (20_memory.md R73) -/

theorem Memory.spaceLoad_inside {offset : Nat} {data : List Byte} (m : Memory)
    (le : offset + data.length - 1 ≤ 65535) : m.spaceLoad offset data = .ok (m.copyIn offset data) :=
  if_pos le

theorem Memory.spaceLoad_past {offset : Nat} {data : List Byte} (m : Memory)
    (past : 65535 < offset + data.length - 1) : m.spaceLoad offset data = .error (.loadOutOfRange offset data.length) :=
  if_neg past.not_ge

/-- Settles O42: past the end the refusal, within the space the copy loop of R73 and its frame. -/
theorem spaceLoadCopiesOrRefuses : Obligations.SpaceLoadCopiesOrRefuses := by
  intro m offset data canonical
  refine ⟨Memory.spaceLoad_past m, fun le => ⟨_, Memory.spaceLoad_inside m le, fun i lt => ?_, fun a out => ?_⟩⟩
  · have fits : offset + data.length ≤ 65536 := by omega
    exact Memory.read_copyIn_inside canonical fits lt
  · exact Memory.read_copyIn_outside m out

/-! ### The router's choice of a mapping (20_memory.md R86) -/

/-- The router searches its list from the front. -/
theorem firstHit_eq_find? {δ : Type} (mode : HitMode) (maps : List (Mapping δ)) (a : Nat) :
    firstHit mode maps a = maps.find? (·.isHit mode a) := by
  induction maps with
  | nil => rfl
  | cons m rest ih =>
    rw [firstHit, List.find?_cons, ih]
    cases m.isHit mode a <;> rfl

/-- Settles O43: the search from the front stops at the first hit, or finds none. -/
theorem firstMappingWins : Obligations.FirstMappingWins := by
  intro mode maps a
  rw [firstHit_eq_find?]
  constructor
  · intro m
    rw [List.find?_eq_some_iff_append]
    constructor
    · rintro ⟨hit, before, after, cut, misses⟩
      exact ⟨before, after, cut, hit, fun x mem => by simpa using misses x mem⟩
    · rintro ⟨before, after, cut, hit, misses⟩
      exact ⟨hit, before, after, cut, fun x mem => by simpa using misses x mem⟩
  · simp only [List.find?_eq_none, Bool.not_eq_true]

/-! ### Reads and writes through the memory router (20_memory.md R92 to R95) -/

/-- A vector is determined by its bytes. -/
theorem eq_of_bytes_eq {n : Nat} {x y : BitVec (8 * n)}
    (bytes : ∀ i, i < n → (x >>> (8 * i)).setWidth 8 = (y >>> (8 * i)).setWidth 8) : x = y := by
  apply BitVec.eq_of_getLsbD_eq
  intro j lt
  have bit := congrArg (BitVec.getLsbD · (j % 8)) (bytes (j / 8) (by omega))
  have low : j % 8 < 8 := Nat.mod_lt j (by decide)
  simpa only [BitVec.getLsbD_setWidth, BitVec.getLsbD_ushiftRight, low, decide_true, Bool.true_and,
    Nat.div_add_mod] using bit

/-- What `SpaceWrite` puts within the space `SpaceRead` gives back. -/
theorem Memory.spaceRead_spaceWrite {phys : Nat} {w : Width} {m : Memory} (x : BitVec (8 * w.bytes))
    (canonical : m.wf = true) (le : phys + w.bytes - 1 ≤ 65535) :
    (m.spaceWrite phys w x).spaceRead phys w = some x := by
  obtain ⟨v, read, bytes⟩ := (spaceReadIsLittleEndian (m.spaceWrite phys w x) phys w).1 le
  have same : v = x := eq_of_bytes_eq fun i lt =>
    (bytes i lt).trans (Memory.read_spaceWrite_inside x canonical le lt)
  rw [read, same]

/-- Under `CLOSED_AND` a write that starts in RAM is a write of the space. -/
theorem State.memWrite_ram {s : State} {a : Word} {w : Width} (x : BitVec (8 * w.bytes)) (mode : s.hitMode = .closedAnd)
    (inRam : 0x4000 ≤ a.toNat) : s.memWrite a w x = .ok (s.setMem (s.mem.spaceWrite a.toNat w x)) := by
  rw [State.memWrite_eq, if_pos ⟨mode, inRam⟩]

/-- Settles O44: the write is one of the space, which reads back there and leaves every other address. -/
theorem ramWriteReadsBack : Obligations.RamWriteReadsBack := by
  intro s a w x canonical mode inRam fits
  refine ⟨_, State.memWrite_ram x mode inRam, ?_, rfl, fun b out => Memory.read_spaceWrite_outside s.mem x out⟩
  rw [State.memRead_eq, State.setMem_mem, Memory.spaceRead_spaceWrite x canonical (by omega)]

/-- Settles O45: the router forwards no write to ROM or under `SOURCE_OR`, and the space drops one past its end. -/
theorem otherWritesAreDropped : Obligations.OtherWritesAreDropped := by
  intro s a w x dropped
  rw [State.memWrite_eq]
  split
  next forwarded =>
    obtain ⟨mode, inRam⟩ := forwarded
    obtain sourceOr | inRom | past := dropped
    · exact nomatch mode.symm.trans sourceOr
    · exact absurd inRam inRom.not_ge
    · rw [Memory.spaceWrite_past s.mem x (by omega)]
      rfl
  next => rfl

/-- Settles O60: the read is one of the space, with the bounds and bytes of `SpaceRead`. -/
theorem routerReadIsSpaceRead : Obligations.RouterReadIsSpaceRead := by
  intro s a w
  rw [State.memRead_eq]
  obtain ⟨inside, past⟩ := spaceReadIsLittleEndian s.mem a.toNat w
  refine ⟨rfl, fun fits => ?_, fun beyond => ?_⟩
  · obtain ⟨v, read, bytes⟩ := inside (by omega)
    exact ⟨v, congrArg _ read, bytes⟩
  · rw [past (by omega)]

/-! ### The I/O router and its one device (20_memory.md R101 to R105) -/

/-- Where a port access goes: to the device at its own port, and under `SOURCE_OR` at every port from there up; else
nowhere under `CLOSED_AND`, and to a negative offset under `SOURCE_OR`. -/
theorem route_ioMap (mode : HitMode) (p : Byte) :
    route mode ioMap p.toNat =
      if p = 0xFE#8 ∨ (mode = .sourceOr ∧ p = 0xFF#8) then .ok (some (.border, p.toNat - 0xFE))
      else if mode = .closedAnd then .ok none
      else .error (.negativeRelativeAddress p.toNat 0xFE 0xFE) := by
  have lt := p.isLt
  have fe : p = 0xFE#8 ↔ p.toNat = 254 := BitVec.toNat_inj.symm
  have ff : p = 0xFF#8 ↔ p.toNat = 255 := BitVec.toNat_inj.symm
  simp only [fe, ff]
  cases mode with
  | closedAnd =>
    have hit : (254 ≤ p.toNat ∧ p.toNat ≤ 254) ↔ p.toNat = 254 := by omega
    by_cases at254 : p.toNat = 254
    · simp [route, firstHit, ioMap, Mapping.isHit, Config.borderPort, at254]
    · simp [route, firstHit, ioMap, Mapping.isHit, Config.borderPort, ← Bool.decide_and, hit, at254]
  | sourceOr =>
    have fromBorder : p.toNat = 254 ∨ p.toNat = 255 ↔ 254 ≤ p.toNat := by omega
    by_cases up : 254 ≤ p.toNat
    · simp [route, firstHit, ioMap, Mapping.isHit, Config.borderPort, fromBorder, up]
    · simp [route, firstHit, ioMap, Mapping.isHit, Config.borderPort, fromBorder, up, Nat.lt_of_not_le up]

/-- Settles O46: by where the port's access goes. -/
theorem portWriteDrivesTheBorder : Obligations.PortWriteDrivesTheBorder := by
  intro s p v
  rw [State.ioWrite, route_ioMap]
  split_ifs
  · rfl
  · rfl
  · rfl

/-- Settles O47: by where the port's access goes. -/
theorem portReadIsAFreshDraw : Obligations.PortReadIsAFreshDraw := by
  intro s p
  rw [State.ioRead, route_ioMap]
  split_ifs
  · rfl
  · rfl
  · rfl

/-! ### Register pairs (10_state.md R36) -/

theorem RegPair.high_ne_low (p : RegPair) : p.high ≠ p.low := by
  cases p <;> decide

theorem RegFile.get_setPair_high (r : RegFile) (p : RegPair) (v : Word) : (r.setPair p v).get p.high = hiByte v := by
  rw [RegFile.setPair, RegFile.get_set_ne _ _ p.high_ne_low, RegFile.get_set_same]

theorem RegFile.get_setPair_low (r : RegFile) (p : RegPair) (v : Word) : (r.setPair p v).get p.low = loByte v := by
  rw [RegFile.setPair, RegFile.get_set_same]

theorem RegFile.get_setPair_ne (r : RegFile) {p : RegPair} {x : Slot} (v : Word) (notHigh : x ≠ p.high)
    (notLow : x ≠ p.low) : (r.setPair p v).get x = r.get x := by
  rw [RegFile.setPair, RegFile.get_set_ne _ _ notLow, RegFile.get_set_ne _ _ notHigh]

theorem RegFile.getPair_setPair (r : RegFile) (p : RegPair) (v : Word) : (r.setPair p v).getPair p = v := by
  rw [RegFile.getPair, RegFile.get_setPair_high, RegFile.get_setPair_low, wordOf_bytes]

/-- Settles O50: the two writes of `SetXY`, read at each register of the pair, as the pair and at any other slot. -/
theorem pairsHoldTheHighByteFirst : Obligations.PairsHoldTheHighByteFirst := fun r p v =>
  ⟨r.get_setPair_high p v, r.get_setPair_low p v, r.getPair_setPair p v, fun _ => r.get_setPair_ne v⟩

end Sys2Proof.Machine

namespace Sys2Proof.Machine

/-! ### Each instruction's own effect (41_load_immediate.md, 42_logic.md, 43_jump.md, 40_dispatch.md R156) -/

theorem exec_ldB (n : Byte) (s : State) : exec (.ldB n) s = .next (s.loadImmediate .b n .ldB) := rfl

theorem exec_ldA (n : Byte) (s : State) : exec (.ldA n) s = .next (s.loadImmediate .a n .ldA) := rfl

theorem exec_xorA (s : State) :
    exec .xorA s = .next ((s.fetched.xorHelper (s.reg .a) (s.reg .a) .a).tick Handler.xorA.tStates) := rfl

theorem exec_unimplemented (op : Byte) (s : State) :
    exec (.unimplemented op) s = .next (s.unimplementedOpcode op) := rfl

/-- Settles O5: the load of an immediate into B. -/
theorem loadBCompletes : Obligations.LoadBCompletes := by
  intro n s
  rw [exec_ldB, State.loadImmediate_eq]
  rfl

/-- Settles O6: the load of an immediate into A. -/
theorem loadACompletes : Obligations.LoadACompletes := by
  intro n s
  rw [exec_ldA, State.loadImmediate_eq]
  rfl

/-- With the flag positions of log entry 13, Z and P/V. -/
theorem flagsTable_zero : flagsTable 0x00#8 = 0x44#8 := by decide

/-- Settles O7: A with itself is 0x00, whose entry in the flags table is 0x44. -/
theorem xorACompletes : Obligations.XorACompletes := by
  intro s
  rw [exec_xorA, State.xorHelper_eq, BitVec.xor_self, flagsTable_zero]
  rfl

/-- Settles O8: away from the top the word is read, and PC becomes it. -/
theorem jumpCompletes : Obligations.JumpCompletes := by
  intro nn s below
  rw [exec_jp_below nn below]
  rfl

/-- Settles O9: the word would start at 0xFFFF. -/
theorem jumpRefusedAtTop : Obligations.JumpRefusedAtTop := fun nn _ top => exec_jp_top nn top

/-- Settles O10: the fault's end state. -/
theorem unimplementedCompletes : Obligations.UnimplementedCompletes := by
  intro op s
  rw [exec_unimplemented, State.unimplementedOpcode_eq]

/-! ### Frames (10_state.md R54) -/

@[simp] theorem State.sameBackground_setPc_iff {s t : State} {v : Word} :
    s.sameBackground (t.setPc v) ↔ s.sameBackground t := Iff.rfl

@[simp] theorem State.sameBackground_tick_iff {s t : State} {n : Nat} :
    s.sameBackground (t.tick n) ↔ s.sameBackground t := Iff.rfl

@[simp] theorem State.sameBackground_stop_iff {s t : State} {o : StopOutcome} :
    s.sameBackground (t.stop o) ↔ s.sameBackground t := Iff.rfl

@[simp] theorem State.sameBackground_fetched (s : State) : s.sameBackground s.fetched := s.sameBackground_refl

@[simp] theorem State.reg_setPc (s : State) (v : Word) (x : Slot) : (s.setPc v).reg x = s.reg x := rfl

@[simp] theorem State.reg_tick (s : State) (n : Nat) (x : Slot) : (s.tick n).reg x = s.reg x := rfl

@[simp] theorem State.reg_stop (s : State) (o : StopOutcome) (x : Slot) : (s.stop o).reg x = s.reg x := rfl

@[simp] theorem State.reg_fetched (s : State) (x : Slot) : s.fetched.reg x = s.reg x := rfl

/-- The flags are those of F. -/
theorem State.flag_eq_of_reg_f {s t : State} (h : t.reg .f = s.reg .f) (flag : Flag) : t.flag flag = s.flag flag := by
  rw [State.flag, h, State.flag]

/-- A load of an immediate leaves all but its own register, PC, R and the clock. -/
theorem State.loadImmediate_frame (s : State) {dest : Slot} (notF : dest ≠ .f) (n : Byte) (h : Handler) :
    s.sameBackground (s.loadImmediate dest n h) ∧ (s.loadImmediate dest n h).status = s.status ∧
      (s.loadImmediate dest n h).out = s.out ∧ (∀ x, x ≠ dest → (s.loadImmediate dest n h).reg x = s.reg x) ∧
      ∀ flag, (s.loadImmediate dest n h).flag flag = s.flag flag := by
  have others : ∀ x, x ≠ dest → (s.loadImmediate dest n h).reg x = s.reg x := by
    intro x ne
    simp [State.loadImmediate, State.reg_setReg_ne _ n ne]
  exact ⟨by simp [State.loadImmediate], by simp [State.loadImmediate], by simp [State.loadImmediate], others,
    State.flag_eq_of_reg_f (others .f notF.symm)⟩

/-- Settles O11: both loads are `loadImmediate`, whose frame is proved once for either register. -/
theorem loadFrame : Obligations.LoadFrame := by
  constructor
  · intro n s t h
    cases h
    exact s.loadImmediate_frame (by decide) n .ldB
  · intro n s t h
    cases h
    exact s.loadImmediate_frame (by decide) n .ldA

/-- Settles O12: the frame is that of the XOR helper, which spares every slot but A and F. -/
theorem xorAFrame : Obligations.XorAFrame := by
  intro s t h
  cases h
  refine ⟨?_, ?_, ?_, fun x notA notF => ?_⟩
  · simp [State.xorHelper_eq_setReg]
  · simp [State.xorHelper_eq_setReg]
  · simp [State.xorHelper_eq_setReg]
  · simp [State.reg_xorHelper_ne _ _ _ notA notF]

/-- Settles O13: where it has a next state JP nn writes PC, R and the clock alone. -/
theorem jumpFrame : Obligations.JumpFrame := by
  intro nn s t h
  by_cases top : s.pc = 0xFFFE#16
  · exact nomatch (exec_jp_top nn top).symm.trans h
  · cases (exec_jp_below nn top).symm.trans h
    exact ⟨by simp, by simp, by simp, by simp, State.flag_eq_of_reg_f (by simp)⟩

/-- Settles O14: the fault writes PC, R, the status and the log alone. -/
theorem unimplementedFrame : Obligations.UnimplementedFrame := by
  intro op s t h
  cases h
  have registers : ∀ x, (s.unimplementedOpcode op).reg x = s.reg x := by simp [State.unimplementedOpcode]
  exact ⟨by simp [State.unimplementedOpcode], by simp [State.unimplementedOpcode], registers,
    State.flag_eq_of_reg_f (registers .f)⟩

/-! ### The instruction a handler's bytes are (30_encoding.md R131, R133) -/

theorem opcode_injective : Function.Injective Handler.opcode := by
  intro h h' same
  have entry := dispatchTable_opcode h
  rw [same, dispatchTable_opcode, DispatchEntry.implemented.injEq] at entry
  exact entry.symm

/-- The instruction whose opcode byte, that of `h`, stands at `a`: its operands are the bytes after it. -/
def Memory.instrAt (m : Memory) (a : Word) (h : Handler) : Instr :=
  match h with
  | .ldB => .ldB (m.read (a + 1#16).toNat)
  | .ldA => .ldA (m.read (a + 1#16).toNat)
  | .xorA => .xorA
  | .jp => .jp (wordOf (m.read (a + 1#16).toNat) (m.read (a + 2#16).toNat))

theorem word_add_one_one (a : Word) : a + 1#16 + 1#16 = a + 2#16 := by
  rw [BitVec.add_assoc]
  rfl

theorem decode_bytesAt_handler {h : Handler} {m : Memory} {a : Word} (opcode : m.read a.toNat = h.opcode) :
    decode (m.bytesAt h.length a) = .ok (m.instrAt a h, []) := by
  cases h with
  | ldB | ldA | xorA =>
    simp only [Handler.length, Memory.bytesAt, opcode, decode_opcode]
    rfl
  | jp =>
    simp only [Handler.length, Memory.bytesAt, opcode, decode_opcode, word_add_one_one]
    rfl

theorem Memory.bytesAt_add (m : Memory) (n k : Nat) (a : Word) :
    ∃ more, m.bytesAt (n + k) a = m.bytesAt n a ++ more := by
  induction n generalizing a with
  | zero => exact ⟨_, rfl⟩
  | succ n ih =>
    obtain ⟨more, e⟩ := ih (a + 1#16)
    exact ⟨more, by rw [Nat.add_right_comm, Memory.bytesAt, e, Memory.bytesAt, List.cons_append]⟩

/-- The bytes from one address decode to one instruction, however many are read. -/
theorem decode_bytesAt_unique {m : Memory} {a : Word} {n k : Nat} {i j : Instr} {rest rest' : List Byte}
    (hi : decode (m.bytesAt n a) = .ok (i, rest)) (hj : decode (m.bytesAt k a) = .ok (j, rest')) : i = j := by
  obtain ⟨more, e⟩ := m.bytesAt_add n k a
  obtain ⟨more', e'⟩ := m.bytesAt_add k n a
  have both := decode_append hi more
  rw [← e, Nat.add_comm, e', decode_append hj more', Except.ok.injEq, Prod.mk.injEq] at both
  exact both.1.symm

/-! ### The step from what stands at PC (40_dispatch.md R150) -/

/-- A step runs what the bytes at PC decode to, however many of them are looked at. -/
theorem step_of_decode {s : State} {n : Nat} {i : Instr} {rest : List Byte} (run : s.status = .running)
    (noPrefix : s.modifier = 0x00#8) (hd : decode (s.mem.bytesAt n s.pc) = .ok (i, rest)) : step s = exec i s := by
  obtain ⟨why, stop, -⟩ | ⟨-, pending, -⟩ | ⟨-, -, j, -, hj, e⟩ := step_cases s
  · exact nomatch run.symm.trans stop
  · exact absurd noPrefix pending
  · rw [e, decode_bytesAt_unique hd hj]

/-- Where a handler's byte stands at PC the step is the instruction its bytes make. -/
theorem step_of_handler {s : State} {h : Handler} (run : s.status = .running) (noPrefix : s.modifier = 0x00#8)
    (opcode : s.mem.read s.pc.toNat = h.opcode) : step s = exec (s.mem.instrAt s.pc h) s :=
  step_of_decode run noPrefix (decode_bytesAt_handler opcode)

/-- Every step by the run status, Modifier and the opcode byte's entry in the dispatch table. -/
theorem step_by_dispatch (s : State) :
    (∃ why, s.status = .stopped why ∧ step s = .fault (.coreStopped why)) ∨
    (s.status = .running ∧ s.modifier ≠ 0x00#8 ∧ step s = .next (s.prefixPath (s.mem.read s.pc.toNat))) ∨
    (s.status = .running ∧ s.modifier = 0x00#8 ∧ dispatchTable (s.mem.read s.pc.toNat) = .unimplemented ∧
      step s = .next (s.unimplementedOpcode (s.mem.read s.pc.toNat))) ∨
    (s.status = .running ∧ s.modifier = 0x00#8 ∧ ∃ h : Handler, s.mem.read s.pc.toNat = h.opcode ∧
      step s = exec (s.mem.instrAt s.pc h) s) := by
  cases run : s.status with
  | stopped why => exact .inl ⟨why, rfl, step_of_stopped run⟩
  | running =>
    by_cases noPrefix : s.modifier = 0x00#8
    · cases entry : dispatchTable (s.mem.read s.pc.toNat) with
      | unimplemented => exact .inr (.inr (.inl ⟨rfl, noPrefix, rfl, step_of_noHandler run noPrefix entry⟩))
      | implemented h =>
        have opcode := dispatchTable_implemented entry
        exact .inr (.inr (.inr ⟨rfl, noPrefix, h, opcode, step_of_handler run noPrefix opcode⟩))
    · exact .inr (.inl ⟨rfl, noPrefix, step_of_prefixPending run noPrefix⟩)

/-- Settles O15: the three bytes at PC decode to what the step decodes. -/
theorem stepRunsDecodedInstruction : Obligations.StepRunsDecodedInstruction := fun _ _ _ run noPrefix hd =>
  ⟨(encode_of_decode hd).1, step_of_decode run noPrefix hd⟩

/-- Settles O16: the step is LD B,n with the byte after the opcode. -/
theorem stepOfLoadB : Obligations.StepOfLoadB := fun s run noPrefix opcode =>
  (step_of_handler (h := .ldB) run noPrefix opcode).trans (loadBCompletes _ s)

/-- Settles O17: the step is LD A,n with the byte after the opcode. -/
theorem stepOfLoadA : Obligations.StepOfLoadA := fun s run noPrefix opcode =>
  (step_of_handler (h := .ldA) run noPrefix opcode).trans (loadACompletes _ s)

/-- Settles O18: the step is XOR A. -/
theorem stepOfXorA : Obligations.StepOfXorA := fun s run noPrefix opcode =>
  (step_of_handler (h := .xorA) run noPrefix opcode).trans (xorACompletes s)

/-- Settles O19: the step is JP nn with the word after the opcode, on each side of the top. -/
theorem stepOfJump : Obligations.StepOfJump := by
  intro s run noPrefix opcode
  rw [step_of_handler (h := .jp) run noPrefix opcode]
  split
  next top => exact jumpRefusedAtTop _ s top
  next below => exact jumpCompletes _ s below

/-! ### The step and the spec's pseudocode (40_dispatch.md R150, R158) -/

theorem pseudoStep_of_stopped {s : State} {why : Option StopOutcome} (stop : s.status = .stopped why) :
    pseudoStep s = .fault (.coreStopped why) := by
  simp only [pseudoStep, stop]

theorem pseudoStep_of_prefixPending {s : State} (run : s.status = .running) (pending : s.modifier ≠ 0x00#8) :
    pseudoStep s = .next (s.prefixPath (s.mem.read s.pc.toNat)) := by
  simp only [pseudoStep, run, State.readOpcodeByte, State.fetchByte_eq, State.drawR_modifier, State.setPc_modifier]
  exact if_pos pending

theorem pseudoStep_of_noHandler {s : State} (run : s.status = .running) (noPrefix : s.modifier = 0x00#8)
    (noHandler : dispatchTable (s.mem.read s.pc.toNat) = .unimplemented) :
    pseudoStep s = .next (s.unimplementedOpcode (s.mem.read s.pc.toNat)) := by
  simp only [pseudoStep, run, State.readOpcodeByte, State.fetchByte_eq, State.drawR_modifier, State.setPc_modifier,
    noPrefix, ne_eq, not_true_eq_false, if_false, noHandler]
  rfl

theorem pseudoStep_of_handler {s : State} {h : Handler} (run : s.status = .running) (noPrefix : s.modifier = 0x00#8)
    (opcode : s.mem.read s.pc.toNat = h.opcode) : pseudoStep s = runHandler h s.fetched := by
  simp only [pseudoStep, run, State.readOpcodeByte, State.fetchByte_eq, State.drawR_modifier, State.setPc_modifier,
    noPrefix, ne_eq, not_true_eq_false, if_false, opcode, dispatchTable_opcode]
  rfl

/-- The handler that reads its operands while it runs does what the decoded instruction does. -/
theorem runHandler_fetched (h : Handler) (s : State) : runHandler h s.fetched = exec (s.mem.instrAt s.pc h) s := by
  cases h with
  | ldB | ldA =>
    simp only [runHandler, State.readByte_eq]
    rfl
  | xorA => rfl
  | jp =>
    by_cases top : s.pc = 0xFFFE#16
    · simp only [runHandler, s.fetched.readWord_top ((pc_succ_top s.pc).2 top), Memory.instrAt, exec_jp_top _ top]
    · simp only [runHandler, s.fetched.readWord_ok (mt (pc_succ_top s.pc).1 top), Memory.instrAt, exec_jp_below _ top,
        State.fetched_pc, State.fetched_mem, word_add_one_one]
      rfl

/-- Settles O22: by the run status, Modifier and the opcode byte, and for each handler by its operand reads. -/
theorem stepAgreesWithPseudocode : Obligations.StepAgreesWithPseudocode := by
  intro s
  obtain ⟨why, stop, e⟩ | ⟨run, pending, e⟩ | ⟨run, noPrefix, noHandler, e⟩ | ⟨run, noPrefix, h, opcode, e⟩ :=
    step_by_dispatch s
  · rw [e, pseudoStep_of_stopped stop]
  · rw [e, pseudoStep_of_prefixPending run pending]
  · rw [e, pseudoStep_of_noHandler run noPrefix noHandler]
  · rw [e, pseudoStep_of_handler run noPrefix opcode, runHandler_fetched]

end Sys2Proof.Machine

namespace Sys2Proof.Machine

/-! ### What a step with a next state has done (40_dispatch.md R150, R156 to R158) -/

/-- The most a handler writes: PC, B, A, F, R and the clock. -/
def State.handled (s : State) (h : Handler) (pc : Word) (b a f : Byte) : State :=
  { s with
    regs := { s.regs with b := b, a := a, f := f }, pc := pc, clock := s.clock + h.tStates,
    r := Config.rAfterStep s.draws, draws := s.draws + 1 }

@[simp] theorem State.handled_clock (s : State) (h : Handler) (pc : Word) (b a f : Byte) :
    (s.handled h pc b a f).clock = s.clock + h.tStates := rfl

@[simp] theorem State.handled_mem (s : State) (h : Handler) (pc : Word) (b a f : Byte) :
    (s.handled h pc b a f).mem = s.mem := rfl

@[simp] theorem State.handled_out (s : State) (h : Handler) (pc : Word) (b a f : Byte) :
    (s.handled h pc b a f).out = s.out := rfl

@[simp] theorem State.handled_f (s : State) (h : Handler) (pc : Word) (b a f : Byte) :
    (s.handled h pc b a f).regs.f = f := rfl

@[simp] theorem State.sameBackground_handled (s : State) (h : Handler) (pc : Word) (b a f : Byte) :
    s.sameBackground (s.handled h pc b a f) := by
  simp [State.sameBackground, State.handled]

/-- A handler's instruction that has a next state has written no more than `handled`; F is written by XOR A alone, from
the flags table at 0x00 (10_state.md R34). -/
theorem exec_instrAt_next {h : Handler} {m : Memory} {start : Word} {s t : State}
    (e : exec (m.instrAt start h) s = .next t) :
    ∃ pc b a f, t = s.handled h pc b a f ∧ f = if h = .xorA then flagsTable 0x00#8 else s.regs.f := by
  cases h with
  | ldB =>
    cases (loadBCompletes _ s).symm.trans e
    exact ⟨_, _, s.regs.a, s.regs.f, rfl, rfl⟩
  | ldA =>
    cases (loadACompletes _ s).symm.trans e
    exact ⟨_, s.regs.b, _, s.regs.f, rfl, rfl⟩
  | xorA =>
    cases (xorACompletes s).symm.trans e
    exact ⟨_, s.regs.b, _, _, rfl, flagsTable_zero.symm⟩
  | jp =>
    by_cases top : s.pc = 0xFFFE#16
    · exact nomatch (exec_jp_top _ top).symm.trans e
    · cases (jumpCompletes _ s top).symm.trans e
      exact ⟨_, s.regs.b, s.regs.a, s.regs.f, rfl, rfl⟩

/-- A step with a next state has stopped the run after the fetch (a prefix pending or no handler), or has run the
handler of the byte at PC. -/
theorem step_next_cases {s t : State} (e : step s = .next t) :
    s.status = .running ∧
    (((s.modifier ≠ 0x00#8 ∨ dispatchTable (s.mem.read s.pc.toNat) = .unimplemented) ∧ ∃ o, t = s.fetched.stop o) ∨
      (s.modifier = 0x00#8 ∧ ∃ h : Handler, s.mem.read s.pc.toNat = h.opcode ∧
        ∃ pc b a f, t = s.handled h pc b a f ∧ f = if h = .xorA then flagsTable 0x00#8 else s.regs.f)) := by
  obtain ⟨why, -, e'⟩ | ⟨run, pending, e'⟩ | ⟨run, -, noHandler, e'⟩ | ⟨run, noPrefix, h, opcode, e'⟩ :=
    step_by_dispatch s
  · exact nomatch e'.symm.trans e
  · cases e'.symm.trans e
    exact ⟨run, .inl ⟨.inl pending, _, rfl⟩⟩
  · cases e'.symm.trans e
    exact ⟨run, .inl ⟨.inr noHandler, _, rfl⟩⟩
  · exact ⟨run, .inr ⟨noPrefix, h, opcode, exec_instrAt_next (e'.symm.trans e)⟩⟩

/-- Settles O27: a stopped next state is the fetched state with the run stopped. -/
theorem faultsArePrecise : Obligations.FaultsArePrecise := by
  intro s t e stopped
  obtain ⟨run, ⟨-, o, rfl⟩ | ⟨-, h, -, pc, b, a, f, rfl, -⟩⟩ := step_next_cases e
  · simp
  · exact absurd run stopped

/-- Settles O28: a step that went on has added its handler's count, one that stopped none. -/
theorem clockAdvancesByTheTable : Obligations.ClockAdvancesByTheTable := by
  intro s t e
  obtain ⟨run, ⟨-, o, rfl⟩ | ⟨-, h, opcode, pc, b, a, f, rfl, -⟩⟩ := step_next_cases e
  · exact ⟨nofun, fun _ => rfl⟩
  · refine ⟨fun _ => ⟨h, opcode, ?_⟩, fun stopped => absurd run stopped⟩
    cases h <;> rfl

/-! ### Refused steps (60_exceptions.md R244, R247) -/

/-- An instruction is refused only where it is JP nn with its word at 0xFFFF. -/
theorem exec_refused {i : Instr} {s : State} {r : Refusal} (e : exec i s = .refused r) :
    (∃ nn, i = .jp nn) ∧ s.pc = 0xFFFE#16 ∧ r = .wordFetchAtTop 0xFFFF#16 := by
  cases i with
  | ldB | ldA | xorA | unimplemented => cases e
  | jp nn =>
    by_cases top : s.pc = 0xFFFE#16
    · cases (exec_jp_top nn top).symm.trans e
      exact ⟨⟨nn, rfl⟩, top, rfl⟩
    · exact nomatch (exec_jp_below nn top).symm.trans e

/-- Only the jump's bytes make a jump. -/
theorem eq_jp_of_instrAt {h : Handler} {m : Memory} {a nn : Word} (e : m.instrAt a h = .jp nn) : h = .jp := by
  cases h with
  | ldB | ldA | xorA => cases e
  | jp => rfl

theorem step_jp_top {s : State} (run : s.status = .running) (noPrefix : s.modifier = 0x00#8) (top : s.pc = 0xFFFE#16)
    (opcode : s.mem.read 0xFFFE = 0xC3#8) : step s = .refused (.wordFetchAtTop 0xFFFF#16) := by
  have atPc : s.mem.read s.pc.toNat = Handler.jp.opcode := by rw [top]; exact opcode
  exact (step_of_handler run noPrefix atPc).trans (exec_jp_top _ top)

/-- Settles O24: of the four kinds of step only a handler's instruction can be refused, and of these only the jump. -/
theorem onlyWordFetchAtTopIsRefused : Obligations.OnlyWordFetchAtTopIsRefused := by
  intro s r
  constructor
  · intro refused
    obtain ⟨why, -, e⟩ | ⟨-, -, e⟩ | ⟨-, -, -, e⟩ | ⟨run, noPrefix, h, opcode, e⟩ := step_by_dispatch s
    · exact nomatch e.symm.trans refused
    · exact nomatch e.symm.trans refused
    · exact nomatch e.symm.trans refused
    · obtain ⟨⟨nn, jump⟩, top, reason⟩ := exec_refused (e.symm.trans refused)
      obtain rfl := eq_jp_of_instrAt jump
      rw [top] at opcode
      exact ⟨run, noPrefix, top, opcode, reason⟩
  · rintro ⟨run, noPrefix, top, opcode, rfl⟩
    exact step_jp_top run noPrefix top opcode

/-- Settles O25: the refused step's record. -/
theorem refusedStepIsRecorded : Obligations.RefusedStepIsRecorded := by
  intro s run noPrefix top opcode
  rw [perform_processInstruction_refused (step_jp_top run noPrefix top opcode), ← (pc_succ_top s.pc).2 top]
  simp only [State.refuseStep, State.stop, StopOutcome.logLines, List.append_nil]
  rfl

/-! ### Invariants of the step (10_state.md R46, R54, 20_memory.md section 1) -/

@[simp] theorem State.inertAtReset_stop_iff {s : State} {o : StopOutcome} :
    (s.stop o).inertAtReset ↔ s.inertAtReset := Iff.rfl

@[simp] theorem State.inertAtReset_fetched_iff {s : State} : s.fetched.inertAtReset ↔ s.inertAtReset := Iff.rfl

@[simp] theorem State.inertAtReset_handled_iff {s : State} {h : Handler} {pc : Word} {b a f : Byte} :
    (s.handled h pc b a f).inertAtReset ↔ s.inertAtReset := Iff.rfl

theorem State.inertAtReset_hostReset (s : State) (c : Nat) : (s.hostReset c).inertAtReset := by
  simp [State.inertAtReset, RegFile.zero]

/-- No step writes memory or Modifier. -/
theorem step_keeps_wellFormed {s t : State} (form : s.wellFormed) (e : step s = .next t) : t.wellFormed := by
  obtain ⟨-, ⟨-, o, rfl⟩ | ⟨-, h, -, pc, b, a, f, rfl, -⟩⟩ := step_next_cases e
  · exact form
  · exact form

theorem step_keeps_inertAtReset {s t : State} (inert : s.inertAtReset) (e : step s = .next t) : t.inertAtReset := by
  obtain ⟨-, ⟨-, o, rfl⟩ | ⟨-, h, -, pc, b, a, f, rfl, -⟩⟩ := step_next_cases e
  · simpa using inert
  · simpa using inert

/-- Settles O29: memory and Modifier are what no step writes. -/
theorem stepKeepsTheForm : Obligations.StepKeepsTheForm := fun _ _ => step_keeps_wellFormed

/-- Settles O32: F is kept where the run stops, and where a handler ran it is XOR A's or the old one. -/
theorem flagsComeFromXorAOnly : Obligations.FlagsComeFromXorAOnly := by
  intro s t e
  obtain ⟨-, ⟨notRun, o, rfl⟩ | ⟨noPrefix, h, opcode, pc, b, a, f, rfl, written⟩⟩ := step_next_cases e
  · refine ⟨fun _ => rfl, fun noPrefix opcode => ?_, id⟩
    obtain pending | noHandler := notRun
    · exact absurd noPrefix pending
    · rw [opcode] at noHandler
      exact absurd noHandler (by decide)
  · by_cases isXor : h = .xorA
    · subst isXor
      rw [if_pos rfl] at written
      refine ⟨fun other => ?_, fun _ _ => written, fun _ => .inr (written.trans (by decide))⟩
      exact absurd opcode (other.resolve_left (not_not.2 noPrefix))
    · rw [if_neg isXor] at written
      refine ⟨fun _ => written, fun _ isAF => ?_, fun old => ?_⟩
      · exact absurd (opcode_injective (a₂ := .xorA) (opcode.symm.trans isAF)) isXor
      · rwa [State.flagsFromXor, State.handled_f, written]

/-! ### Invariants of the host operations (70_reset_and_hazards.md section 1) -/

/-- What holds after Init's draw, after Reset, after a step, and whatever the rest writes (memory in its form, BorderReg,
PC, R, the status, the draws and the outputs) holds after every host operation. -/
theorem State.perform_keeps {P : State → Prop} (s : State) (q : Request)
    (init : ∀ draw, q = .init draw → P (State.init draw)) (reset : ∀ c, P (s.hostReset c))
    (next : ∀ t, step s = .next t → P t)
    (other : ∀ (m : Memory) (border r : Byte) (pc : Word) (status : RunStatus) (draws : Nat) (out : List Output),
      (s.mem.wf = true → m.wf = true) →
        P { s with mem := m, border := border, r := r, pc := pc, status := status, draws := draws, out := out }) :
    P (s.perform q).1 := by
  by_cases isInit : ∃ draw, q = .init draw
  · obtain ⟨draw, rfl⟩ := isInit
    exact init draw rfl
  by_cases isReset : ∃ c, q = .reset c
  · obtain ⟨c, rfl⟩ := isReset
    exact reset c
  by_cases isStep : q = .processInstruction
  · subst isStep
    cases e : step s with
    | next t =>
      rw [perform_processInstruction_next e]
      exact next t e
    | fault f =>
      rw [perform_processInstruction_fault e]
      exact other _ _ _ _ _ _ _ id
    | refused r =>
      obtain ⟨pc, r', draws, record⟩ := s.refuseStep_cases r
      rw [perform_processInstruction_refused e, record]
      exact other _ _ _ _ _ _ _ id
  · obtain ⟨m, border, status, draws, out, e, -, canonical⟩ :=
      s.perform_cases q (fun d h => isInit ⟨d, h⟩) (fun c h => isReset ⟨c, h⟩) isStep
    rw [e]
    exact other _ _ _ _ _ _ _ canonical

/-- Settles O30: the step keeps the form, Reset clears Modifier, and every other operation keeps it and the canonical
form of memory. -/
theorem everyRequestKeepsTheForm : Obligations.EveryRequestKeepsTheForm := by
  intro s q form drawForm
  obtain ⟨canonical, legal⟩ := form
  exact s.perform_keeps q drawForm (fun _ => ⟨canonical, .inl rfl⟩) (fun _ => step_keeps_wellFormed ⟨canonical, legal⟩)
    (fun _ _ _ _ _ _ _ keeps => ⟨keeps canonical, legal⟩)

/-- Settles O31: the step keeps the inert fields, Reset sets them, and no other operation but Init writes one. -/
theorem inertStateStaysAtReset : Obligations.InertStateStaysAtReset := by
  refine ⟨fun s t => step_keeps_inertAtReset, fun s q inert noInit => ?_⟩
  exact s.perform_keeps q (fun draw isInit => absurd isInit (noInit draw)) s.inertAtReset_hostReset
    (fun _ => step_keeps_inertAtReset inert) (fun _ _ _ _ _ _ _ _ => inert)

/-- Settles O35: the hit test is background to the step, and no operation but Init writes it. -/
theorem hitModeIsConstant : Obligations.HitModeIsConstant := by
  intro s q noInit
  have next : ∀ t, step s = .next t → t.hitMode = s.hitMode := by
    intro t e
    obtain ⟨-, ⟨-, o, rfl⟩ | ⟨-, h, -, pc, b, a, f, rfl, -⟩⟩ := step_next_cases e
    · rfl
    · rfl
  exact s.perform_keeps (P := fun t => t.hitMode = s.hitMode) q (fun draw isInit => absurd isInit (noInit draw))
    (fun _ => rfl) next (fun _ _ _ _ _ _ _ _ => rfl)

/-- Settles O33: the fields of the state after reset. -/
theorem resetMeetsTheInvariants : Obligations.ResetMeetsTheInvariants :=
  ⟨⟨State.reset_mem_wf, .inl rfl⟩, State.reset.inertAtReset_hostReset 0, .inl rfl, rfl, rfl, rfl, rfl⟩

/-- Settles O52: Init stops the core with no outcome, and a stopped core has no step. -/
theorem noStepBeforeTheFirstReset : Obligations.NoStepBeforeTheFirstReset := fun _ _ =>
  ⟨rfl, step_of_stopped rfl, rfl, rfl⟩

/-! ### Runs of Ok steps (60_exceptions.md, 20_memory.md R113, R120) -/

theorem State.sameBackground_trans {s t u : State} (first : s.sameBackground t) (rest : t.sameBackground u) :
    s.sameBackground u := by
  simp_all only [State.sameBackground, and_self, implies_true]

theorem four_le_tStates (h : Handler) : 4 ≤ h.tStates := by
  cases h <;> decide

/-- An Ok step writes no memory and no output, and its instruction takes at least 4 T-states. -/
theorem stepsOk_frame {s t : State} (ok : s.stepsOk t) :
    s.sameBackground t ∧ t.mem = s.mem ∧ t.out = s.out ∧ s.clock + 4 ≤ t.clock := by
  obtain ⟨e, run⟩ := ok
  obtain ⟨-, ⟨-, o, rfl⟩ | ⟨-, h, -, pc, b, a, f, rfl, -⟩⟩ := step_next_cases e
  · cases run
  · simp [four_le_tStates h]

/-- Settles O34: by induction on the run, each step of which has the frame of an Ok step. -/
theorem runsWriteNoMemory : Obligations.RunsWriteNoMemory := by
  intro s t run
  induction run with
  | here s => exact ⟨s.sameBackground_refl, rfl, rfl, .inl rfl⟩
  | onward first rest ih =>
    obtain ⟨background, mem, out, progress⟩ := stepsOk_frame first
    obtain ⟨background', mem', out', stayed | progress'⟩ := ih
    · exact ⟨State.sameBackground_trans background background', mem'.trans mem, out'.trans out,
        .inr (stayed ▸ progress)⟩
    · exact ⟨State.sameBackground_trans background background', mem'.trans mem, out'.trans out, .inr (by omega)⟩

/-! ### What a step neither reads nor writes (20_memory.md section 5, 60_exceptions.md R250) -/

/-- `g` changes only what no meaning reads and no meaning writes: it keeps the run status, Modifier, PC and the register
file, and may be done before or after each operation of the meanings. -/
structure State.Unseen (g : State → State) : Prop where
  status : ∀ s, (g s).status = s.status
  modifier : ∀ s, (g s).modifier = s.modifier
  pc : ∀ s, (g s).pc = s.pc
  regs : ∀ s, (g s).regs = s.regs
  fetched : ∀ s, (g s).fetched = g s.fetched
  setPc : ∀ s v, (g s).setPc v = g (s.setPc v)
  setReg : ∀ s x v, (g s).setReg x v = g (s.setReg x v)
  tick : ∀ s n, (g s).tick n = g (s.tick n)
  stop : ∀ s o, (g s).stop o = g (s.stop o)

/-- An outcome with `g` applied to its next state. -/
def mapNext (g : State → State) (o : Host.Outcome State Fault Refusal) : Host.Outcome State Fault Refusal :=
  match o with
  | .next t => .next (g t)
  | .fault f => .fault f
  | .refused r => .refused r

section
variable {g : State → State} (unseen : State.Unseen g)
include unseen

theorem loadImmediate_unseen (s : State) (dest : Slot) (n : Byte) (h : Handler) :
    (g s).loadImmediate dest n h = g (s.loadImmediate dest n h) := by
  simp only [State.loadImmediate, State.passByte_eq, unseen.fetched, unseen.pc, unseen.setPc, unseen.setReg, unseen.tick]

theorem exec_unseen (i : Instr) (s : State) : exec i (g s) = mapNext g (exec i s) := by
  have byte (x : Slot) : (g s).reg x = s.reg x := by rw [State.reg, unseen.regs, State.reg]
  cases i with
  | ldB n => rw [exec_ldB, exec_ldB, loadImmediate_unseen unseen, mapNext]
  | ldA n => rw [exec_ldA, exec_ldA, loadImmediate_unseen unseen, mapNext]
  | xorA =>
    simp only [exec_xorA, byte, State.xorHelper_eq_setReg, unseen.fetched, unseen.setReg, unseen.tick, mapNext]
  | unimplemented op =>
    simp only [exec_unimplemented, State.unimplementedOpcode, unseen.fetched, unseen.pc, unseen.stop, mapNext]
  | jp nn =>
    by_cases top : s.pc = 0xFFFE#16
    · rw [exec_jp_top nn top, exec_jp_top nn ((unseen.pc s).trans top), mapNext]
    · have top' : (g s).pc ≠ 0xFFFE#16 := by rwa [unseen.pc]
      rw [exec_jp_below nn top, exec_jp_below nn top', mapNext, unseen.fetched, unseen.setPc, unseen.tick]

/-- Where the bytes of the instruction at PC are the same the step is the same but for `g`. -/
theorem step_unseen {s : State}
    (bytes : (g s).mem.bytesAt (instrLength (s.mem.read s.pc.toNat)) s.pc =
      s.mem.bytesAt (instrLength (s.mem.read s.pc.toNat)) s.pc) : step (g s) = mapNext g (step s) := by
  have samePc := unseen.pc s
  obtain ⟨why, stop, e⟩ | ⟨run, pending, e⟩ | ⟨run, noPrefix, i, -, hd, e⟩ := step_cases s
  · rw [e, step_of_stopped ((unseen.status s).trans stop), mapNext]
  · have opcode : (g s).mem.read s.pc.toNat = s.mem.read s.pc.toNat := by
      rw [bytesAt_instrLength, bytesAt_instrLength] at bytes
      exact (List.cons.inj bytes).1
    have pending' : (g s).modifier ≠ 0x00#8 := by rwa [unseen.modifier]
    rw [e, step_of_prefixPending ((unseen.status s).trans run) pending', samePc, opcode]
    simp only [State.prefixPath, unseen.fetched, samePc, unseen.stop, mapNext]
  · rw [← bytes, ← samePc] at hd
    rw [e, step_of_decode ((unseen.status s).trans run) ((unseen.modifier s).trans noPrefix) hd, exec_unseen unseen]

end

theorem State.unseen_setMem (m : Memory) : State.Unseen (·.setMem m) where
  status _ := rfl
  modifier _ := rfl
  pc _ := rfl
  regs _ := rfl
  fetched _ := rfl
  setPc _ _ := rfl
  setReg _ _ _ := rfl
  tick _ _ := rfl
  stop _ _ := rfl

/-- The interrupt state and Halted replaced. -/
def State.setInterrupts (f1 f2 p np lk ha : Bool) (mode : IntMode) (page : Byte) (s : State) : State :=
  { s with
    iff1 := f1, iff2 := f2, im := mode, intPending := p, nmiPending := np, intLock := lk, i := page, halted := ha }

theorem State.unseen_setInterrupts (f1 f2 p np lk ha : Bool) (mode : IntMode) (page : Byte) :
    State.Unseen (State.setInterrupts f1 f2 p np lk ha mode page) where
  status _ := rfl
  modifier _ := rfl
  pc _ := rfl
  regs _ := rfl
  fetched _ := rfl
  setPc _ _ := rfl
  setReg _ _ _ := rfl
  tick _ _ := rfl
  stop _ _ := rfl

/-- Settles O36: memory is unseen but for the bytes of the instruction at PC, on which the two agree. -/
theorem stepReadsOnlyItsOwnBytes : Obligations.StepReadsOnlyItsOwnBytes := by
  intro s m bytes
  have e := step_unseen (State.unseen_setMem m) bytes
  refine ⟨fun t next => ?_, fun r refused => ?_, fun f fault => ?_⟩
  · rw [e, next, mapNext]
  · rw [e, refused, mapNext]
  · rw [e, fault, mapNext]

/-- Settles O37: the interrupt state and Halted are unseen. -/
theorem interruptStateIsInert : Obligations.InterruptStateIsInert := by
  intro s t f1 f2 p np lk ha mode page next
  have e := step_unseen (State.unseen_setInterrupts f1 f2 p np lk ha mode page) (s := s) rfl
  rw [next] at e
  exact e

end Sys2Proof.Machine

namespace Sys2Proof.Machine

/-! ### The bits of the flags table (10_state.md R33, R50) -/

/-- The folding XOR of R50 is clear exactly for an even number of 1 bits. -/
theorem not_oddParity_eq_even_countP (v : Byte) :
    (!oddParity v) = decide (((List.range 8).countP fun k => v.getLsbD k) % 2 = 0) := by
  have range : List.range 8 = [0, 1, 2, 3, 4, 5, 6, 7] := rfl
  simp only [oddParity, range, List.countP_cons, List.countP_nil]
  generalize v.getLsbD 0 = b0, v.getLsbD 1 = b1, v.getLsbD 2 = b2, v.getLsbD 3 = b3, v.getLsbD 4 = b4,
    v.getLsbD 5 = b5, v.getLsbD 6 = b6, v.getLsbD 7 = b7
  revert b0 b1 b2 b3 b4 b5 b6 b7
  decide

/-- A bit of the table's entry is the result's where the mask keeps it, or is forced at 6 and 2. -/
theorem getLsbD_flagsTable (v : Byte) (k : Nat) :
    (flagsTable v).getLsbD k =
      (v.getLsbD k && (0xA8#8).getLsbD k || decide (v = 0x00#8) && (0x40#8).getLsbD k ||
        !oddParity v && (0x04#8).getLsbD k) := by
  rw [flagsTable, BitVec.getLsbD_or, BitVec.getLsbD_or, BitVec.getLsbD_and]
  by_cases zero : v = 0x00#8
  · cases odd : oddParity v <;> simp [zero]
  · cases odd : oddParity v <;> simp [zero]

/-- Settles O49: by the bit of each flag. -/
theorem flagsTableBits : Obligations.FlagsTableBits := by
  intro v
  rw [← not_oddParity_eq_even_countP]
  simp only [flagOf, getLsbD_flagsTable]
  simp [Flag.bit]

/-! ### Rendering by the operand (45_disassembler.md R217 to R220) -/

theorem State.formatValue_byte (s : State) (c : Word) :
    s.formatValue .direct8Bit c = .ok (hexByte (s.mem.read c.toNat), c + 1#16) := by
  simp only [State.formatValue, State.nextByte_eq]

/-- An address is shown high byte first. -/
theorem State.formatValue_address (s : State) (c : Word) :
    s.formatValue .address c =
      .ok (hexByte (s.mem.read (c + 1#16).toNat) ++ hexByte (s.mem.read c.toNat), c + 1#16 + 1#16) := by
  simp only [State.formatValue, State.nextByte_eq, hexWord, hiByte_wordOf, loByte_wordOf]

@[simp] theorem State.renderOperand_none (s : State) (separator : Char) (t : OperatorType) (c : Word) :
    s.renderOperand separator t .none c = .ok ([], c) := rfl

/-- A symbol with no placeholder is shown as it is. -/
theorem State.renderOperand_plain (s : State) (separator : Char) (t : OperatorType) {text : Text} (c : Word)
    (plain : splitPlaceholder text = none) :
    s.renderOperand separator t (.symbol text) c = .ok (separator :: text, c) := by
  simp only [State.renderOperand, plain]

/-- A placeholder is replaced by the operand's value. -/
theorem State.renderOperand_value {s : State} (separator : Char) {t : OperatorType} {text before after v : Text}
    {c c' : Word} (cut : splitPlaceholder text = some (before, after)) (value : s.formatValue t c = .ok (v, c')) :
    s.renderOperand separator t (.symbol text) c = .ok (separator :: (before ++ v ++ after), c') := by
  simp only [State.renderOperand, cut, value]

theorem State.render_of_operands {s : State} {d : InstrDef} {start c c1 c2 : Word} {text1 text2 : Text}
    (first : s.renderOperand ' ' d.operatorType d.operand1 c = .ok (text1, c1))
    (second : s.renderOperand ',' d.operatorType d.operand2 c1 = .ok (text2, c2)) :
    s.render d start c = .ok ⟨true, d.name ++ text1 ++ text2, consumed start c2, []⟩ := by
  simp only [State.render, first, second]

/-! ### Unprefixed bytes (45_disassembler.md R213, R215, R216) -/

/-- From a byte that is no prefix the scan ends at once. -/
theorem State.prefixScan_plain {s : State} {a : Word}
    (plain : s.mem.read a.toNat ∉ [0xDD#8, 0xFD#8, 0xED#8, 0xCB#8]) :
    s.prefixScan a = .ok ⟨none, none, s.mem.read a.toNat, a + 1#16⟩ := by
  simp only [List.mem_cons, List.not_mem_nil, or_false, not_or] at plain
  obtain ⟨notDD, notFD, notED, notCB⟩ := plain
  rw [State.prefixScan_of_stages (s.scanIndex_of_other (not_or.2 ⟨notDD, notFD⟩))
    (s.scanExtended_of_other (not_or.2 ⟨notED, notCB⟩)), s.scanDisplacement_of_other (by simp)]

/-- The `Standard` table has an entry for every byte. -/
theorem InstrTable.entry_standard (op : Byte) : InstrTable.standard.entry op = some (standardTable op) :=
  if_pos op.isLt

/-- A byte that is no prefix is rendered from its `Standard` entry. -/
theorem State.decodeInstruction_plain {s : State} {a : Word} {op : Byte} (opcode : s.mem.read a.toNat = op)
    (plain : op ∉ [0xDD#8, 0xFD#8, 0xED#8, 0xCB#8]) :
    s.decodeInstruction a = s.render (standardTable op) a (a + 1#16) := by
  subst opcode
  simp only [State.decodeInstruction, State.prefixScan_plain plain, selectTable, InstrTable.entry_standard]

/-- Both loads of an immediate, by the letter of their register. -/
theorem State.render_load (s : State) (a : Word) (register : Char) :
    s.render ⟨['L', 'D'], .direct8Bit, .symbol [register], .symbol ['$', 'n', 'n']⟩ a (a + 1#16) =
      .ok ⟨true, ['L', 'D', ' ', register, ',', '$'] ++ hexByte (s.mem.read (a + 1#16).toNat), 2, []⟩ := by
  have plain : splitPlaceholder [register] = none := by simp [splitPlaceholder, List.isPrefixOf]
  rw [State.render_of_operands (s.renderOperand_plain ' ' _ _ plain)
    (State.renderOperand_value ',' rfl (s.formatValue_byte _)), BitVec.add_assoc, consumed_add]
  simp

/-- Settles O56: each opcode by its own `Standard` entry and its operands. -/
theorem disassemblerAgreesWithExecutor : Obligations.DisassemblerAgreesWithExecutor := by
  intro s a
  refine ⟨fun opcode => ?_, fun opcode => ?_, fun opcode => ?_, fun opcode => ?_⟩
  · rw [State.decodeInstruction_plain opcode (by decide)]
    exact s.render_load a 'A'
  · rw [State.decodeInstruction_plain opcode (by decide)]
    exact s.render_load a 'B'
  · rw [State.decodeInstruction_plain opcode (by decide),
      State.render_of_operands (s.renderOperand_plain ' ' _ _ rfl) (s.renderOperand_none ',' _ _), consumed_add]
    rfl
  · have three : a + 2#16 + 1#16 = a + 3#16 := by rw [BitVec.add_assoc]; rfl
    rw [State.decodeInstruction_plain opcode (by decide),
      State.render_of_operands (State.renderOperand_value ' ' rfl (s.formatValue_address _))
        (s.renderOperand_none ',' _ _), word_add_one_one, three, consumed_add]
    simp [standardTable, instrLength, dispatchTable, Handler.length]

/-- Settles O58: the entry is the open one, and rendering any entry succeeds without a log line. -/
theorem unimplementedOpcodesDisassemble : Obligations.UnimplementedOpcodesDisassemble := by
  rintro s a op rfl other
  simp only [List.mem_cons, List.not_mem_nil, or_false, not_or] at other
  obtain ⟨not06, not3E, notAF, notC3, noPrefix⟩ := other
  have openEntry : standardTable (s.mem.read a.toNat) = Config.disasmStandardTable (s.mem.read a.toNat) := by
    simp only [standardTable, not06, not3E, notAF, notC3, if_false]
  obtain ⟨d, rendered, ok, log⟩ := s.render_ok (Config.disasmStandardTable (s.mem.read a.toNat)) a (a + 1#16)
  refine ⟨d, ?_, rendered, ok, log⟩
  rw [State.decodeInstruction_plain rfl (by simpa using noPrefix), openEntry, rendered]

/-- Settles O59: a prefixed byte puts out the Error line, any other renders without one. -/
theorem disassemblyChangesNoState : Obligations.DisassemblyChangesNoState := by
  intro s a
  by_cases prefixed : s.mem.read a.toNat ∈ [0xDD#8, 0xFD#8, 0xED#8, 0xCB#8]
  · obtain ⟨x, scan, pre, -⟩ := s.prefixScan_of_prefix a prefixed
    refine ⟨[.log .error ""], .inr ⟨"", rfl⟩, ?_⟩
    rw [State.perform_decodeInstruction_of_prefix scan pre]
    rfl
  · obtain ⟨d, rendered, -, log⟩ := s.render_ok (standardTable (s.mem.read a.toNat)) a (a + 1#16)
    refine ⟨[], .inl rfl, ?_⟩
    simp only [State.perform, State.decodeInstruction_plain rfl prefixed, rendered, log]
    rfl

end Sys2Proof.Machine
